-- ==== Sys2Proof/Word.lean ====
section
/-! DEFINITION. The words, names and records the block works with: code tables' names (30_encoding.md), the results of the
four units (40_ to 44_), and the values the surroundings put on the input port (10_state.md R13). -/

namespace Sys2Proof

/-- One character lane, and one output byte lane (00_scope.md, section 4: `bits8`). -/
abbrev Byte := BitVec 8

/-- A code-point value: any 32-bit accumulator value (00_scope.md R4, section 6). -/
abbrev CodePoint := BitVec 32

/-- The input bus `in_chars`: eight character lanes (10_state.md R13). -/
abbrev Chars := BitVec 64

/-- The number of a character lane, 0 to 7 (20_memory.md R32). -/
abbrev LaneNo := Fin 8

/-- The outputs of one hex-digit decoder (40_hexdigit.md R56). -/
structure HexOut where
  /-- 1 when the character is a hex digit. -/
  ok : Bool
  /-- The digit's value; 0 when `ok` is 0 (R58). -/
  v : BitVec 4
deriving DecidableEq, Repr

/-- The five planes (30_encoding.md R46). -/
inductive Plane where
  | invalid
  | ascii
  | latin
  | multilingual
  | extended
deriving DecidableEq, Repr

/-- The failure causes, and their absence (30_encoding.md R47). -/
inductive ErrCause where
  | errNone
  | errLength
  | errDigit
  | errCodepoint
deriving DecidableEq, Repr

/-- The result of the hex accumulator (41_accumulator.md R60). -/
structure ParseResult where
  err : ErrCause
  cp : CodePoint
deriving DecidableEq, Repr

/-- The result of the bit-packer (43_packer.md R73). -/
structure PackResult where
  nbytes : BitVec 3
  bytes : BitVec 32
deriving DecidableEq, Repr

/-- The result of the combinational pipeline (44_encode.md R81): what a request edge writes to the six data registers. -/
structure EncodeResult where
  ok : Bool
  err : BitVec 2
  nbytes : BitVec 3
  bytes : BitVec 32
  cp : CodePoint
  plane : BitVec 3
deriving DecidableEq, Repr

/-- The classes of a UTF-8 byte by its top bits (30_encoding.md R50). -/
inductive ByteClass where
  | lead1
  | lead2
  | lead3
  | lead4
  | continuation
  /-- A byte of none of the five classes of R50 (top bits `11111`); the block writes none. -/
  | other
deriving DecidableEq, Repr

/-- A group of `w` input pins around a clock edge (70_reset_and_hazards.md R107): the level of each pin, and which pins are
not stable and two-valued there (X, Z, or changing at the edge). -/
structure Pins (w : Nat) where
  val : BitVec w
  bad : BitVec w
deriving DecidableEq, Repr

/-- Everything the block samples at one rising edge of `clk` (10_state.md R13). -/
structure PortSample where
  rst : Pins 1
  inValid : Pins 1
  inLen : Pins 4
  inChars : Pins 64
deriving DecidableEq, Repr

/-- What can happen at the input port (log entries 3 and 4). -/
inductive Event where
  /-- A rising edge of `clk`, with these values on the pins. -/
  | edge (p : PortSample)
  /-- Between edges, the pins of character lane `i` take the code `code`. -/
  | lane (i : LaneNo) (code : Byte)
deriving DecidableEq, Repr

end Sys2Proof
end

