-- ==== Sys2Proof/Config.lean ====
section
/-! DEFINITION. The block's fixed parameters (00_scope.md R4 to R8) and the free values of power-up (10_state.md R25). -/

namespace Sys2Proof.Config

/-- `ACC_W = 32` (00_scope.md R4). -/
abbrev accW : Nat := 32

/-- `MAX_DIGITS = ACC_W / 4 = 8` (00_scope.md R5). -/
abbrev maxDigits : Nat := accW / 4

/-- `LEN_W = 4` (00_scope.md R6). -/
abbrev lenW : Nat := 4

/-- `CP_MAX` (00_scope.md R7). -/
abbrev cpMax : Nat := 0x10FFFF

/-- `SURR_LO` (00_scope.md R7). -/
abbrev surrLo : Nat := 0xD800

/-- `SURR_HI` (00_scope.md R7). -/
abbrev surrHi : Nat := 0xDFFF

/-! The contents of the seven registers before the first reset edge: free draws, under no law (10_state.md R25;
93_implementation_defined.md U1; log entry 6). None has a body, so nothing can be proved about its value. -/

opaque powerUpValid : Bool
opaque powerUpOk : Bool
opaque powerUpErr : BitVec 2
opaque powerUpNbytes : BitVec 3
opaque powerUpBytes : BitVec 32
opaque powerUpCp : BitVec 32
opaque powerUpPlane : BitVec 3

end Sys2Proof.Config
end

