-- ==== Sys2Proof/Syntax.lean ====
section
/-! DEFINITION. The rows of spec/opcode_table.json: nine rows decode a request by its length (30_encoding.md R44), and
twenty-three decode one character lane (30_encoding.md R43). -/

namespace Sys2Proof

/-- One constructor per row of spec/opcode_table.json. A request row carries the bus `in_chars`; `lenOdd` also carries the
length, which its pattern `...1` leaves open. A character row carries the number of the lane it decodes; `charInvalid` also
carries the code. -/
inductive Instr where
  /-- `LEN0`: `in_len` is 0. -/
  | len0 (chars : Chars)
  /-- `LEN_ODD`: `in_len` is odd. -/
  | lenOdd (n : BitVec 4) (chars : Chars)
  /-- `ENCODE2`: `in_len` is 2. -/
  | encode2 (chars : Chars)
  /-- `ENCODE4`: `in_len` is 4. -/
  | encode4 (chars : Chars)
  /-- `ENCODE6`: `in_len` is 6. -/
  | encode6 (chars : Chars)
  /-- `ENCODE8`: `in_len` is 8. -/
  | encode8 (chars : Chars)
  /-- `LEN_LONG10`: `in_len` is 10. -/
  | lenLong10 (chars : Chars)
  /-- `LEN_LONG12`: `in_len` is 12. -/
  | lenLong12 (chars : Chars)
  /-- `LEN_LONG14`: `in_len` is 14. -/
  | lenLong14 (chars : Chars)
  /-- `HEX_0`: the lane holds '0'. -/
  | hex0 (i : LaneNo)
  /-- `HEX_1`: the lane holds '1'. -/
  | hex1 (i : LaneNo)
  /-- `HEX_2`: the lane holds '2'. -/
  | hex2 (i : LaneNo)
  /-- `HEX_3`: the lane holds '3'. -/
  | hex3 (i : LaneNo)
  /-- `HEX_4`: the lane holds '4'. -/
  | hex4 (i : LaneNo)
  /-- `HEX_5`: the lane holds '5'. -/
  | hex5 (i : LaneNo)
  /-- `HEX_6`: the lane holds '6'. -/
  | hex6 (i : LaneNo)
  /-- `HEX_7`: the lane holds '7'. -/
  | hex7 (i : LaneNo)
  /-- `HEX_8`: the lane holds '8'. -/
  | hex8 (i : LaneNo)
  /-- `HEX_9`: the lane holds '9'. -/
  | hex9 (i : LaneNo)
  /-- `HEX_A`: the lane holds 'A'. -/
  | hexA (i : LaneNo)
  /-- `HEX_B`: the lane holds 'B'. -/
  | hexB (i : LaneNo)
  /-- `HEX_C`: the lane holds 'C'. -/
  | hexC (i : LaneNo)
  /-- `HEX_D`: the lane holds 'D'. -/
  | hexD (i : LaneNo)
  /-- `HEX_E`: the lane holds 'E'. -/
  | hexE (i : LaneNo)
  /-- `HEX_F`: the lane holds 'F'. -/
  | hexF (i : LaneNo)
  /-- `HEX_a_lc`: the lane holds 'a'. -/
  | hexALc (i : LaneNo)
  /-- `HEX_b_lc`: the lane holds 'b'. -/
  | hexBLc (i : LaneNo)
  /-- `HEX_c_lc`: the lane holds 'c'. -/
  | hexCLc (i : LaneNo)
  /-- `HEX_d_lc`: the lane holds 'd'. -/
  | hexDLc (i : LaneNo)
  /-- `HEX_e_lc`: the lane holds 'e'. -/
  | hexELc (i : LaneNo)
  /-- `HEX_f_lc`: the lane holds 'f'. -/
  | hexFLc (i : LaneNo)
  /-- `CHAR_INVALID`: the lane holds a code that no `HEX_*` row matches. -/
  | charInvalid (i : LaneNo) (code : Byte)
deriving DecidableEq, Repr

end Sys2Proof
end

