-- ==== Sys2Proof/Decode.lean ====
section
/-! DEFINITION. Decoding what stands at the input port (30_encoding.md R42 to R44), total on every event, and the encoder
back; with the table's own numbering of its rows. -/

namespace Sys2Proof

/-- What an event turns out to be. -/
inductive Decoded where
  /-- A row of the opcode table. -/
  | instr (i : Instr)
  /-- A rising edge with `rst = 1`; `chars` is on the bus (44_encode.md R83). -/
  | reset (chars : Chars)
  /-- A rising edge with `rst = 0` and `in_valid = 0`; `chars` is on the bus (44_encode.md R83). -/
  | idle (chars : Chars)
  /-- Rejected: an edge at which some input pin is not stable and two-valued (70_reset_and_hazards.md R107). -/
  | unknownInput
deriving DecidableEq, Repr

/-- Pins that are stable and two-valued, at these levels. -/
def Pins.known {w : Nat} (v : BitVec w) : Pins w := ⟨v, 0#w⟩

/-- Every input pin is stable and two-valued around the edge (70_reset_and_hazards.md R107). -/
def PortSample.stable (p : PortSample) : Bool :=
  p.rst.bad == 0#1 && p.inValid.bad == 0#1 && p.inLen.bad == 0#4 && p.inChars.bad == 0#64

/-- The length decode of 30_encoding.md R44: its patterns, most significant bit first. -/
def decodeRequest (n : BitVec 4) (chars : Chars) : Instr :=
  match n.getLsbD 3, n.getLsbD 2, n.getLsbD 1, n.getLsbD 0 with
  | false, false, false, false => .len0 chars
  | _, _, _, true => .lenOdd n chars
  | false, false, true, false => .encode2 chars
  | false, true, false, false => .encode4 chars
  | false, true, true, false => .encode6 chars
  | true, false, false, false => .encode8 chars
  | true, false, true, false => .lenLong10 chars
  | true, true, false, false => .lenLong12 chars
  | true, true, true, false => .lenLong14 chars

/-- The character rows of the opcode table: 22 exact codes (30_encoding.md R43), then the default row (40_hexdigit.md R58). -/
def decodeChar (i : LaneNo) (code : Byte) : Instr :=
  match code with
  | 0x30#8 => .hex0 i
  | 0x31#8 => .hex1 i
  | 0x32#8 => .hex2 i
  | 0x33#8 => .hex3 i
  | 0x34#8 => .hex4 i
  | 0x35#8 => .hex5 i
  | 0x36#8 => .hex6 i
  | 0x37#8 => .hex7 i
  | 0x38#8 => .hex8 i
  | 0x39#8 => .hex9 i
  | 0x41#8 => .hexA i
  | 0x42#8 => .hexB i
  | 0x43#8 => .hexC i
  | 0x44#8 => .hexD i
  | 0x45#8 => .hexE i
  | 0x46#8 => .hexF i
  | 0x61#8 => .hexALc i
  | 0x62#8 => .hexBLc i
  | 0x63#8 => .hexCLc i
  | 0x64#8 => .hexDLc i
  | 0x65#8 => .hexELc i
  | 0x66#8 => .hexFLc i
  | _ => .charInvalid i code

/-- The decoder: the three cases of 44_encode.md R83 in their order, after the refusal of 70_reset_and_hazards.md R107. -/
def decode : Event → Decoded
  | .lane i code => .instr (decodeChar i code)
  | .edge p =>
    if !p.stable then .unknownInput
    else if p.rst.val = 1#1 then .reset p.inChars.val
    else if p.inValid.val = 1#1 then .instr (decodeRequest p.inLen.val p.inChars.val)
    else .idle p.inChars.val

/-- The edge that presents the request `(n, chars)`: `rst = 0` and `in_valid = 1` (30_encoding.md R42). -/
def requestEvent (n : BitVec 4) (chars : Chars) : Event :=
  .edge ⟨.known 0#1, .known 1#1, .known n, .known chars⟩

/-- The event an instruction stands for, from the patterns of 30_encoding.md R44 and the codes of R43. -/
def encode : Instr → Event
  | .len0 chars => requestEvent 0x0#4 chars
  | .lenOdd n chars => requestEvent n chars
  | .encode2 chars => requestEvent 0x2#4 chars
  | .encode4 chars => requestEvent 0x4#4 chars
  | .encode6 chars => requestEvent 0x6#4 chars
  | .encode8 chars => requestEvent 0x8#4 chars
  | .lenLong10 chars => requestEvent 0xA#4 chars
  | .lenLong12 chars => requestEvent 0xC#4 chars
  | .lenLong14 chars => requestEvent 0xE#4 chars
  | .hex0 i => .lane i 0x30#8
  | .hex1 i => .lane i 0x31#8
  | .hex2 i => .lane i 0x32#8
  | .hex3 i => .lane i 0x33#8
  | .hex4 i => .lane i 0x34#8
  | .hex5 i => .lane i 0x35#8
  | .hex6 i => .lane i 0x36#8
  | .hex7 i => .lane i 0x37#8
  | .hex8 i => .lane i 0x38#8
  | .hex9 i => .lane i 0x39#8
  | .hexA i => .lane i 0x41#8
  | .hexB i => .lane i 0x42#8
  | .hexC i => .lane i 0x43#8
  | .hexD i => .lane i 0x44#8
  | .hexE i => .lane i 0x45#8
  | .hexF i => .lane i 0x46#8
  | .hexALc i => .lane i 0x61#8
  | .hexBLc i => .lane i 0x62#8
  | .hexCLc i => .lane i 0x63#8
  | .hexDLc i => .lane i 0x64#8
  | .hexELc i => .lane i 0x65#8
  | .hexFLc i => .lane i 0x66#8
  | .charInvalid i code => .lane i code

/-- The event that one number of spec/opcode_table.json stands for (log entry 1). A number of one byte below 16 is a request
row's `in_len`, with zeros on the bus; a number of one byte from 16 up is a character row's code, in lane 0. A longer number
is a request, with `in_len` in its first byte and the eight lanes, lane 0 first, in the bytes after it. -/
def tableEvent (nbits w : Nat) : Option Event :=
  if nbits ≤ 8 then
    if w < 16 then some (requestEvent (BitVec.ofNat 4 w) 0#64)
    else if w < 2 ^ nbits then some (.lane 0 (BitVec.ofNat 8 w))
    else none
  else if w % 256 < 16 then
    if w < 2 ^ 72 then some (requestEvent (BitVec.ofNat 4 (w % 256)) (BitVec.ofNat 64 (w / 256)))
    else none
  else none

/-- The instruction the decoder reads from a number of spec/opcode_table.json (log entry 1). -/
def decodeTableWord (nbits w : Nat) : Option Instr :=
  match tableEvent nbits w with
  | none => none
  | some e =>
    match decode e with
    | .instr i => some i
    | .reset _ => none
    | .idle _ => none
    | .unknownInput => none

end Sys2Proof
end

