-- ==== Sys2Proof/Machine/Operands.lean ====
section
/-! DEFINITION. From the request's bits to the code-point value: the character lanes (20_memory.md R32), the hex-digit
decoder (40_hexdigit.md), and the hex accumulator (41_accumulator.md). Pure functions of the request (10_state.md R23). -/

namespace Sys2Proof.Machine

/-- `lane(chars, i) = chars[8i+7 : 8i]` (20_memory.md R32). -/
def lane (chars : Chars) (i : Nat) : Byte := chars.extractLsb' (8 * i) 8

/-- `HEXVAL(c)` (40_hexdigit.md R56). -/
def hexval (c : Byte) : HexOut :=
  if 0x30#8 ≤ c ∧ c ≤ 0x39#8 then ⟨true, (c - 0x30#8).extractLsb' 0 4⟩
  else if 0x41#8 ≤ c ∧ c ≤ 0x46#8 then ⟨true, (c - 0x37#8).extractLsb' 0 4⟩
  else if 0x61#8 ≤ c ∧ c ≤ 0x66#8 then ⟨true, (c - 0x57#8).extractLsb' 0 4⟩
  else ⟨false, 0x0#4⟩

/-- The gate form that 40_hexdigit.md R56 gives for the value of a valid code. -/
def hexvalGate (c : Byte) : BitVec 4 :=
  if c.getLsbD 6 then c.extractLsb' 0 4 + 9#4 else c.extractLsb' 0 4

/-- All eight lane decoders at once: `(ok_i, v_i) = HEXVAL(lane(in_chars, i))` (40_hexdigit.md R59). -/
def hexLanes (chars : Chars) : Vector HexOut 8 :=
  #v[hexval (lane chars 0), hexval (lane chars 1), hexval (lane chars 2), hexval (lane chars 3),
    hexval (lane chars 4), hexval (lane chars 5), hexval (lane chars 6), hexval (lane chars 7)]

/-- `LENGTH_OK(n)` (41_accumulator.md R61). -/
def lengthOk (n : BitVec 4) : Bool :=
  n != 0#4 && n.getLsbD 0 == false && decide (n.toNat ≤ Config.maxDigits)

/-- `DIGITS_OK(n, chars)` (41_accumulator.md R62). -/
def digitsOk (n : BitVec 4) (chars : Chars) : Bool :=
  (List.range n.toNat).all fun i => (hexval (lane chars i)).ok

/-- One term of the sum of 41_accumulator.md R63: `zext_32(v_i) << (4 * (n - 1 - i))`. -/
def digitTerm (n : BitVec 4) (chars : Chars) (i : Nat) : CodePoint :=
  (hexval (lane chars i)).v.setWidth 32 <<< (4 * (n.toNat - 1 - i))

/-- `ACCUMULATE(n, chars)` (41_accumulator.md R63): the sum over the significant digits. -/
def accumulate (n : BitVec 4) (chars : Chars) : CodePoint :=
  (List.range n.toNat).foldl (fun sum i => sum + digitTerm n chars i) 0#32

/-- The hardware form of 41_accumulator.md R63: the concatenation `A` of the eight digit values, `v_0` most significant,
shifted right by `4 * (8 - n)`. -/
def accumulateShift (n : BitVec 4) (chars : Chars) : CodePoint :=
  let v := fun i => (hexval (lane chars i)).v
  (v 0 ++ v 1 ++ v 2 ++ v 3 ++ v 4 ++ v 5 ++ v 6 ++ v 7 : BitVec 32) >>> (4 * (8 - n.toNat))

/-- `PARSE(n, chars)` (41_accumulator.md R60), the checks in the order of 60_exceptions.md R92. -/
def parse (n : BitVec 4) (chars : Chars) : ParseResult :=
  if !lengthOk n then ⟨.errLength, 0#32⟩
  else if !digitsOk n chars then ⟨.errDigit, 0#32⟩
  else ⟨.errNone, accumulate n chars⟩

end Sys2Proof.Machine
end

