-- ==== Sys2Proof/Machine/Flags.lean ====
section
/-! DEFINITION. The result codes (30_encoding.md R46, R47), the plane classifier (42_classifier.md), and the three forms a
result can take (44_encode.md R81; 60_exceptions.md R89 to R91). -/

namespace Sys2Proof.Machine

/-- The plane code (30_encoding.md R46). -/
def planeCode : Plane → BitVec 3
  | .invalid => 0#3
  | .ascii => 1#3
  | .latin => 2#3
  | .multilingual => 3#3
  | .extended => 4#3

/-- The error code (30_encoding.md R47). -/
def errCode : ErrCause → BitVec 2
  | .errNone => 0#2
  | .errLength => 1#2
  | .errDigit => 2#2
  | .errCodepoint => 3#2

/-- `CLASSIFY(cp)` (42_classifier.md R68): unsigned comparisons, inclusive bounds. -/
def classify (cp : CodePoint) : Plane :=
  if cp ≤ 0x0000007F#32 then .ascii
  else if cp ≤ 0x000007FF#32 then .latin
  else if cp ≤ 0x0000D7FF#32 then .multilingual
  else if cp ≤ 0x0000DFFF#32 then .invalid
  else if cp ≤ 0x0000FFFF#32 then .multilingual
  else if cp ≤ 0x0010FFFF#32 then .extended
  else .invalid

/-- A failure with cause `e`, recording the value `cp`: `ok = 0`, no bytes, plane `INVALID` (44_encode.md R82). -/
def failure (e : ErrCause) (cp : CodePoint) : EncodeResult :=
  { ok := false, err := errCode e, nbytes := 0#3, bytes := 0#32, cp := cp, plane := planeCode .invalid }

/-- A success: the packed bytes, the value and its plane (44_encode.md R81). -/
def success (cp : CodePoint) (p : Plane) (packed : PackResult) : EncodeResult :=
  { ok := true, err := errCode .errNone, nbytes := packed.nbytes, bytes := packed.bytes, cp := cp, plane := planeCode p }

end Sys2Proof.Machine
end

