-- ==== Sys2Proof/Machine/Packer.lean ====
section
/-! DEFINITION. The UTF-8 bit-packer (43_packer.md), the output byte lanes (20_memory.md R33), and the byte classes a
consumer reads them by (30_encoding.md R50). -/

namespace Sys2Proof.Machine

/-- One byte lane of 43_packer.md R73: `PREFIX | ((cp >> SHIFT) & MASK)`. -/
def packLane (pre : Byte) (shift : Nat) (mask : Byte) (cp : CodePoint) : Byte :=
  pre ||| ((cp >>> shift).setWidth 8 &&& mask)

/-- `b4 ++ b3 ++ b2 ++ b1` (43_packer.md R73): byte 1 in bits [7:0] (20_memory.md R33). -/
def joinLanes (b1 b2 b3 b4 : Byte) : BitVec 32 := b4 ++ b3 ++ b2 ++ b1

/-- The ASCII row of 43_packer.md R73 (R74). -/
def packAscii (cp : CodePoint) : PackResult :=
  ⟨1#3, joinLanes (packLane 0x00 0 0x7F cp) 0 0 0⟩

/-- The LATIN row of 43_packer.md R73 (R75). -/
def packLatin (cp : CodePoint) : PackResult :=
  ⟨2#3, joinLanes (packLane 0xC0 6 0x1F cp) (packLane 0x80 0 0x3F cp) 0 0⟩

/-- The MULTILINGUAL row of 43_packer.md R73 (R76). -/
def packMultilingual (cp : CodePoint) : PackResult :=
  ⟨3#3, joinLanes (packLane 0xE0 12 0x0F cp) (packLane 0x80 6 0x3F cp) (packLane 0x80 0 0x3F cp) 0⟩

/-- The EXTENDED row of 43_packer.md R73 (R77). -/
def packExtended (cp : CodePoint) : PackResult :=
  ⟨4#3, joinLanes (packLane 0xF0 18 0x07 cp) (packLane 0x80 12 0x3F cp) (packLane 0x80 6 0x3F cp) (packLane 0x80 0 0x3F cp)⟩

/-- `PACK(cp, plane)` on the 3-bit plane code (43_packer.md R73). Every code that is none of the four planes' takes the last
arm: `INVALID` and the reserved codes 5, 6 and 7 (R78). -/
def pack (cp : CodePoint) (plane : BitVec 3) : PackResult :=
  if plane = planeCode .ascii then packAscii cp
  else if plane = planeCode .latin then packLatin cp
  else if plane = planeCode .multilingual then packMultilingual cp
  else if plane = planeCode .extended then packExtended cp
  else ⟨0#3, 0#32⟩

/-- `blane(bytes, k) = bytes[8k-1 : 8k-8]`, for `k` from 1 to 4 (20_memory.md R33). -/
def blane (bytes : BitVec 32) (k : Nat) : Byte := bytes.extractLsb' (8 * k - 8) 8

/-- The output sequence in stream order: the first `n` byte lanes (20_memory.md R33). -/
def byteSeq (n : BitVec 3) (bytes : BitVec 32) : List Byte :=
  (List.range n.toNat).map fun k => blane bytes (k + 1)

/-- The class of a byte, its top bits checked in order (30_encoding.md R50). -/
def byteClass (b : Byte) : ByteClass :=
  if b.getLsbD 7 = false then .lead1
  else if b.extractLsb' 5 3 = 0b110#3 then .lead2
  else if b.extractLsb' 4 4 = 0b1110#4 then .lead3
  else if b.extractLsb' 3 5 = 0b11110#5 then .lead4
  else if b.extractLsb' 6 2 = 0b10#2 then .continuation
  else .other

/-- The sequence length a byte's class shows (30_encoding.md R50); none for a continuation byte. -/
def shownLength (b : Byte) : Option (BitVec 3) :=
  match byteClass b with
  | .lead1 => some 1#3
  | .lead2 => some 2#3
  | .lead3 => some 3#3
  | .lead4 => some 4#3
  | .continuation => none
  | .other => none

end Sys2Proof.Machine
end

