-- ==== Sys2Proof/Machine/State.lean ====
section
/-! DEFINITION. The state of one block instance (10_state.md R15), its value after reset (R24) and at power-up (R25), and the
reasons a step can stop. -/

namespace Sys2Proof.Machine

/-- The seven registers, 74 bits: the whole architectural state (10_state.md R15). A field of type `Bool` is a register of
width 1, and `true` is 1. -/
structure Regs where
  /-- R16. -/
  outValid : Bool
  /-- R17. -/
  outOk : Bool
  /-- R18. -/
  outErr : BitVec 2
  /-- R19. -/
  outNbytes : BitVec 3
  /-- R20. -/
  outBytes : BitVec 32
  /-- R21. -/
  outCp : BitVec 32
  /-- R22. -/
  outPlane : BitVec 3
deriving DecidableEq, Repr

/-- The registers, and beside them two fields of the model's own: the wires out of the eight hex-digit decoders
(40_hexdigit.md R59; log entry 3), which no register write reads, and the events at the input port that have not happened
yet, first one first (20_memory.md R40; log entry 4). -/
structure State where
  regs : Regs
  lanes : Vector HexOut 8
  inputs : List Event
deriving DecidableEq, Repr

/-- The reset values of 10_state.md R24. -/
def Regs.reset : Regs :=
  { outValid := false, outOk := false, outErr := 0#2, outNbytes := 0#3, outBytes := 0#32, outCp := 0#32, outPlane := 0#3 }

/-- Every lane decoder seeing a code that is no hex digit, as it does with zeros on the bus (DESIGN CHOICE, log entry 3). -/
def quietLanes : Vector HexOut 8 := Vector.replicate 8 ⟨false, 0#4⟩

/-- The machine right after a reset edge (10_state.md R24), with no event to come. -/
def State.reset : State := { regs := Regs.reset, lanes := quietLanes, inputs := [] }

/-- The machine at power-up, before any reset edge: every register a free draw (10_state.md R25; log entry 6). -/
def State.powerUp : State :=
  { regs :=
      { outValid := Config.powerUpValid, outOk := Config.powerUpOk, outErr := Config.powerUpErr
        outNbytes := Config.powerUpNbytes, outBytes := Config.powerUpBytes, outCp := Config.powerUpCp
        outPlane := Config.powerUpPlane }
    lanes := quietLanes
    inputs := [] }

/-- There is none: no request and no edge stops the block (60_exceptions.md R93; 30_encoding.md R51). -/
inductive Fault where
deriving DecidableEq, Repr

/-- Why a step gives no next state. -/
inductive Refusal where
  /-- An instruction without a meaning yet, raised by an arm of `exec`; no arm raises it now. Safe. -/
  | notModelled (mnemonic : String)
  /-- Raised by `step` at a rising edge where an input pin carries X or Z or changes (70_reset_and_hazards.md R107: "A model
  refuses such inputs rather than choosing a value"). Safe: nothing is claimed of such an edge. -/
  | unknownInput
deriving DecidableEq, Repr

end Sys2Proof.Machine
end

