-- ==== Sys2Proof/Machine/Ops.lean ====
section
/-! DEFINITION. ENCODE (44_encode.md R81), and the operations that change State: the three cases of a clock edge (R83), a
lane settling between edges, and the stopped clock. The block has no memory (20_memory.md R30) and takes no exception
(60_exceptions.md R93), so there is no operation for either. -/

namespace Sys2Proof.Machine

/-- `ENCODE(n, chars)` (44_encode.md R81). -/
def encodeRequest (n : BitVec 4) (chars : Chars) : EncodeResult :=
  let parsed := parse n chars
  if parsed.err ≠ .errNone then failure parsed.err 0#32
  else
    let p := classify parsed.cp
    if p = .invalid then failure .errCodepoint parsed.cp
    else success parsed.cp p (pack parsed.cp (planeCode p))

/-- The seven registers after a request edge whose result is `r` (44_encode.md R83). -/
def Regs.ofResult (r : EncodeResult) : Regs :=
  { outValid := true, outOk := r.ok, outErr := r.err, outNbytes := r.nbytes, outBytes := r.bytes, outCp := r.cp
    outPlane := r.plane }

/-- All seven registers are written at once (20_memory.md R37). -/
def State.setRegs (s : State) (r : Regs) : State := { s with regs := r }

/-- The eight lane decoders follow the bus (40_hexdigit.md R59; log entry 12). -/
def State.setLanes (s : State) (chars : Chars) : State := { s with lanes := hexLanes chars }

/-- One lane decoder's outputs change. -/
def State.setLane (s : State) (i : LaneNo) (h : HexOut) : State := { s with lanes := s.lanes.set i h }

/-- `out_valid <- 0`, and the data registers hold (44_encode.md R83, R84). -/
def State.dropValid (s : State) : State := { s with regs := { s.regs with outValid := false } }

/-- An edge with `rst = 0` and `in_valid = 1` (44_encode.md R83, second case). -/
def requestEdge (n : BitVec 4) (chars : Chars) (s : State) : Host.Outcome State Fault Refusal :=
  .next ((s.setLanes chars).setRegs (Regs.ofResult (encodeRequest n chars)))

/-- An edge with `rst = 1` (44_encode.md R83, first case; 70_reset_and_hazards.md R101, R102). -/
def resetEdge (chars : Chars) (s : State) : Host.Outcome State Fault Refusal :=
  .next ((s.setLanes chars).setRegs Regs.reset)

/-- An edge with `rst = 0` and `in_valid = 0` (44_encode.md R83, third case; R84). -/
def idleEdge (chars : Chars) (s : State) : Host.Outcome State Fault Refusal :=
  .next (s.setLanes chars).dropValid

/-- Between edges, lane `i`'s decoder puts out `h`, and the registers are constant (40_hexdigit.md R56; 44_encode.md R83). -/
def laneSettles (i : LaneNo) (h : HexOut) (s : State) : Host.Outcome State Fault Refusal :=
  .next (s.setLane i h)

/-- No edge comes: the registers hold their values (60_exceptions.md R100; log entry 4). -/
def clockStopped (s : State) : Host.Outcome State Fault Refusal := .next s

/-! The output ports (10_state.md R14): each is driven directly by the register of the same name, and reading one changes
nothing (20_memory.md R38). -/

/-- Port `out_valid`. -/
def State.portValid (s : State) : Bool := s.regs.outValid

/-- Port `out_ok`. -/
def State.portOk (s : State) : Bool := s.regs.outOk

/-- Port `out_err`. -/
def State.portErr (s : State) : BitVec 2 := s.regs.outErr

/-- Port `out_nbytes`. -/
def State.portNbytes (s : State) : BitVec 3 := s.regs.outNbytes

/-- Port `out_bytes`. -/
def State.portBytes (s : State) : BitVec 32 := s.regs.outBytes

/-- Port `out_cp`. -/
def State.portCp (s : State) : BitVec 32 := s.regs.outCp

/-- Port `out_plane`. -/
def State.portPlane (s : State) : BitVec 3 := s.regs.outPlane

end Sys2Proof.Machine
end

