-- ==== Sys2Proof/Machine/HexDigit.lean ====
section
/-! DEFINITION. The character rows of the opcode table (40_hexdigit.md R56, R58): what each row's code makes its lane's
decoder put out. No register changes (R56: "The unit writes no register"). -/

namespace Sys2Proof.Machine

/-- `HEX_0` (R56): '0' has the value 0. -/
def execHex0 (i : LaneNo) (s : State) : Host.Outcome State Fault Refusal :=
  laneSettles i ⟨true, 0x0#4⟩ s

/-- `HEX_1` (R56): '1' has the value 1. -/
def execHex1 (i : LaneNo) (s : State) : Host.Outcome State Fault Refusal :=
  laneSettles i ⟨true, 0x1#4⟩ s

/-- `HEX_2` (R56): '2' has the value 2. -/
def execHex2 (i : LaneNo) (s : State) : Host.Outcome State Fault Refusal :=
  laneSettles i ⟨true, 0x2#4⟩ s

/-- `HEX_3` (R56): '3' has the value 3. -/
def execHex3 (i : LaneNo) (s : State) : Host.Outcome State Fault Refusal :=
  laneSettles i ⟨true, 0x3#4⟩ s

/-- `HEX_4` (R56): '4' has the value 4. -/
def execHex4 (i : LaneNo) (s : State) : Host.Outcome State Fault Refusal :=
  laneSettles i ⟨true, 0x4#4⟩ s

/-- `HEX_5` (R56): '5' has the value 5. -/
def execHex5 (i : LaneNo) (s : State) : Host.Outcome State Fault Refusal :=
  laneSettles i ⟨true, 0x5#4⟩ s

/-- `HEX_6` (R56): '6' has the value 6. -/
def execHex6 (i : LaneNo) (s : State) : Host.Outcome State Fault Refusal :=
  laneSettles i ⟨true, 0x6#4⟩ s

/-- `HEX_7` (R56): '7' has the value 7. -/
def execHex7 (i : LaneNo) (s : State) : Host.Outcome State Fault Refusal :=
  laneSettles i ⟨true, 0x7#4⟩ s

/-- `HEX_8` (R56): '8' has the value 8. -/
def execHex8 (i : LaneNo) (s : State) : Host.Outcome State Fault Refusal :=
  laneSettles i ⟨true, 0x8#4⟩ s

/-- `HEX_9` (R56): '9' has the value 9. -/
def execHex9 (i : LaneNo) (s : State) : Host.Outcome State Fault Refusal :=
  laneSettles i ⟨true, 0x9#4⟩ s

/-- `HEX_A` (R56): 'A' has the value 10. -/
def execHexA (i : LaneNo) (s : State) : Host.Outcome State Fault Refusal :=
  laneSettles i ⟨true, 0xA#4⟩ s

/-- `HEX_B` (R56): 'B' has the value 11. -/
def execHexB (i : LaneNo) (s : State) : Host.Outcome State Fault Refusal :=
  laneSettles i ⟨true, 0xB#4⟩ s

/-- `HEX_C` (R56): 'C' has the value 12. -/
def execHexC (i : LaneNo) (s : State) : Host.Outcome State Fault Refusal :=
  laneSettles i ⟨true, 0xC#4⟩ s

/-- `HEX_D` (R56): 'D' has the value 13. -/
def execHexD (i : LaneNo) (s : State) : Host.Outcome State Fault Refusal :=
  laneSettles i ⟨true, 0xD#4⟩ s

/-- `HEX_E` (R56): 'E' has the value 14. -/
def execHexE (i : LaneNo) (s : State) : Host.Outcome State Fault Refusal :=
  laneSettles i ⟨true, 0xE#4⟩ s

/-- `HEX_F` (R56): 'F' has the value 15. -/
def execHexF (i : LaneNo) (s : State) : Host.Outcome State Fault Refusal :=
  laneSettles i ⟨true, 0xF#4⟩ s

/-- `HEX_a_lc` (R56): 'a' has the value 10. -/
def execHexALc (i : LaneNo) (s : State) : Host.Outcome State Fault Refusal :=
  laneSettles i ⟨true, 0xA#4⟩ s

/-- `HEX_b_lc` (R56): 'b' has the value 11. -/
def execHexBLc (i : LaneNo) (s : State) : Host.Outcome State Fault Refusal :=
  laneSettles i ⟨true, 0xB#4⟩ s

/-- `HEX_c_lc` (R56): 'c' has the value 12. -/
def execHexCLc (i : LaneNo) (s : State) : Host.Outcome State Fault Refusal :=
  laneSettles i ⟨true, 0xC#4⟩ s

/-- `HEX_d_lc` (R56): 'd' has the value 13. -/
def execHexDLc (i : LaneNo) (s : State) : Host.Outcome State Fault Refusal :=
  laneSettles i ⟨true, 0xD#4⟩ s

/-- `HEX_e_lc` (R56): 'e' has the value 14. -/
def execHexELc (i : LaneNo) (s : State) : Host.Outcome State Fault Refusal :=
  laneSettles i ⟨true, 0xE#4⟩ s

/-- `HEX_f_lc` (R56): 'f' has the value 15. -/
def execHexFLc (i : LaneNo) (s : State) : Host.Outcome State Fault Refusal :=
  laneSettles i ⟨true, 0xF#4⟩ s

/-- `CHAR_INVALID` (R58): the code is no hex digit, and the value put out is 0, whatever the code. -/
def execCharInvalid (i : LaneNo) (_code : Byte) (s : State) : Host.Outcome State Fault Refusal :=
  laneSettles i ⟨false, 0x0#4⟩ s

end Sys2Proof.Machine
end

