-- ==== Sys2Proof/Machine/Request.lean ====
section
/-! DEFINITION. The request rows of the opcode table (30_encoding.md R44): each is the request edge of 44_encode.md R83 with
its row's length. -/

namespace Sys2Proof.Machine

/-- `LEN0` (60_exceptions.md R89): a request of length 0. -/
def execLen0 (chars : Chars) (s : State) : Host.Outcome State Fault Refusal :=
  requestEdge 0x0#4 chars s

/-- `LEN_ODD` (60_exceptions.md R89): a request of odd length `n`. -/
def execLenOdd (n : BitVec 4) (chars : Chars) (s : State) : Host.Outcome State Fault Refusal :=
  requestEdge n chars s

/-- `ENCODE2` (44_encode.md R81): a request of length 2. -/
def execEncode2 (chars : Chars) (s : State) : Host.Outcome State Fault Refusal :=
  requestEdge 0x2#4 chars s

/-- `ENCODE4` (44_encode.md R81): a request of length 4. -/
def execEncode4 (chars : Chars) (s : State) : Host.Outcome State Fault Refusal :=
  requestEdge 0x4#4 chars s

/-- `ENCODE6` (44_encode.md R81): a request of length 6. -/
def execEncode6 (chars : Chars) (s : State) : Host.Outcome State Fault Refusal :=
  requestEdge 0x6#4 chars s

/-- `ENCODE8` (44_encode.md R81): a request of length 8. -/
def execEncode8 (chars : Chars) (s : State) : Host.Outcome State Fault Refusal :=
  requestEdge 0x8#4 chars s

/-- `LEN_LONG10` (60_exceptions.md R89): a request of length 10. -/
def execLenLong10 (chars : Chars) (s : State) : Host.Outcome State Fault Refusal :=
  requestEdge 0xA#4 chars s

/-- `LEN_LONG12` (60_exceptions.md R89): a request of length 12. -/
def execLenLong12 (chars : Chars) (s : State) : Host.Outcome State Fault Refusal :=
  requestEdge 0xC#4 chars s

/-- `LEN_LONG14` (60_exceptions.md R89): a request of length 14. -/
def execLenLong14 (chars : Chars) (s : State) : Host.Outcome State Fault Refusal :=
  requestEdge 0xE#4 chars s

end Sys2Proof.Machine
end

