-- ==== Sys2Proof/Machine/Dispatch.lean ====
section
/-! DEFINITION. One arm per row of spec/opcode_table.json. -/

namespace Sys2Proof.Machine

def exec (i : Instr) (s : State) : Host.Outcome State Fault Refusal :=
  match i with
  | .len0 chars => Sys2Proof.Machine.execLen0 chars s
  | .lenOdd n chars => Sys2Proof.Machine.execLenOdd n chars s
  | .encode2 chars => Sys2Proof.Machine.execEncode2 chars s
  | .encode4 chars => Sys2Proof.Machine.execEncode4 chars s
  | .encode6 chars => Sys2Proof.Machine.execEncode6 chars s
  | .encode8 chars => Sys2Proof.Machine.execEncode8 chars s
  | .lenLong10 chars => Sys2Proof.Machine.execLenLong10 chars s
  | .lenLong12 chars => Sys2Proof.Machine.execLenLong12 chars s
  | .lenLong14 chars => Sys2Proof.Machine.execLenLong14 chars s
  | .hex0 l => Sys2Proof.Machine.execHex0 l s
  | .hex1 l => Sys2Proof.Machine.execHex1 l s
  | .hex2 l => Sys2Proof.Machine.execHex2 l s
  | .hex3 l => Sys2Proof.Machine.execHex3 l s
  | .hex4 l => Sys2Proof.Machine.execHex4 l s
  | .hex5 l => Sys2Proof.Machine.execHex5 l s
  | .hex6 l => Sys2Proof.Machine.execHex6 l s
  | .hex7 l => Sys2Proof.Machine.execHex7 l s
  | .hex8 l => Sys2Proof.Machine.execHex8 l s
  | .hex9 l => Sys2Proof.Machine.execHex9 l s
  | .hexA l => Sys2Proof.Machine.execHexA l s
  | .hexB l => Sys2Proof.Machine.execHexB l s
  | .hexC l => Sys2Proof.Machine.execHexC l s
  | .hexD l => Sys2Proof.Machine.execHexD l s
  | .hexE l => Sys2Proof.Machine.execHexE l s
  | .hexF l => Sys2Proof.Machine.execHexF l s
  | .hexALc l => Sys2Proof.Machine.execHexALc l s
  | .hexBLc l => Sys2Proof.Machine.execHexBLc l s
  | .hexCLc l => Sys2Proof.Machine.execHexCLc l s
  | .hexDLc l => Sys2Proof.Machine.execHexDLc l s
  | .hexELc l => Sys2Proof.Machine.execHexELc l s
  | .hexFLc l => Sys2Proof.Machine.execHexFLc l s
  | .charInvalid l code => Sys2Proof.Machine.execCharInvalid l code s

end Sys2Proof.Machine
end

