-- ==== Sys2Proof/Machine/Edge.lean ====
section
/-! DEFINITION. What one event at the input port does (44_encode.md R83). -/

namespace Sys2Proof.Machine

/-- A row of the opcode table runs its meaning; a reset edge and an idle edge are no rows (log entry 9); an edge with an
unknown input is refused (70_reset_and_hazards.md R107). -/
def runEvent (e : Event) (s : State) : Host.Outcome State Fault Refusal :=
  match decode e with
  | .instr i => exec i s
  | .reset chars => resetEdge chars s
  | .idle chars => idleEdge chars s
  | .unknownInput => .refused .unknownInput

end Sys2Proof.Machine
end

