-- ==== Sys2Proof/Machine/Step.lean ====
section
/-! DEFINITION. One step takes the next event at the input port (20_memory.md R40). -/

namespace Sys2Proof.Machine

/-- The next event happens; with none to come, the clock is stopped (60_exceptions.md R100). -/
def step (s : State) : Host.Outcome State Fault Refusal :=
  match s.inputs with
  | [] => clockStopped s
  | e :: rest => runEvent e { s with inputs := rest }

/-- Put the event that a number of spec/opcode_table.json stands for at the head of the events to come, so that the very next
step runs it (log entries 1 and 2). -/
def State.withFetchWord (s : State) (nbits w : Nat) : State :=
  match tableEvent nbits w with
  | none => s
  | some e => { s with inputs := e :: s.inputs }

end Sys2Proof.Machine
end

