-- ==== Sys2Proof/Machine/Text.lean ====
section
/-! DEFINITION. The request notation of 30_encoding.md R53, one line per rising edge of `clk`, and a program in it. -/

namespace Sys2Proof.Machine

/-- One line of text (30_encoding.md R53). What R53 calls "any value" is an operand here. -/
inductive Line where
  /-- `ENCODE "<s>"`. -/
  | encode (s : List Char)
  /-- `ENCODE len=<n> chars=0x<16 hex digits>`. -/
  | encodeRaw (n : BitVec 4) (chars : Chars)
  /-- `IDLE`. -/
  | idle (inLen : BitVec 4) (inChars : Chars)
  /-- `RESET`, also written with a request beside it. -/
  | reset (inValid : BitVec 1) (inLen : BitVec 4) (inChars : Chars)
deriving DecidableEq, Repr

/-- The code in lane `i` for the string `s`: its character `i`, or 0x00 in an unused lane (30_encoding.md R53). -/
def charCode (s : List Char) (i : Nat) : Byte :=
  match s[i]? with
  | some c => BitVec.ofNat 8 c.toNat
  | none => 0x00#8

/-- The bus for the string `s`: character `i` in lane `i`, for the first eight (30_encoding.md R53; 20_memory.md R32). -/
def packChars (s : List Char) : Chars :=
  charCode s 7 ++ charCode s 6 ++ charCode s 5 ++ charCode s 4 ++ charCode s 3 ++ charCode s 2 ++ charCode s 1 ++ charCode s 0

/-- The port values a line stands for; none for a string that cannot be presented: over 15 characters (00_scope.md R6), or
with a character that has no ASCII code (log entry 13). -/
def Line.event : Line → Option Event
  | .encode s =>
    if s.length ≤ 15 && s.all (fun c => c.toNat < 128) then some (requestEvent (BitVec.ofNat 4 s.length) (packChars s))
    else none
  | .encodeRaw n chars => some (requestEvent n chars)
  | .idle inLen inChars => some (.edge ⟨.known 0#1, .known 0#1, .known inLen, .known inChars⟩)
  | .reset inValid inLen inChars => some (.edge ⟨.known 1#1, .known inValid, .known inLen, .known inChars⟩)

/-- Load a program: its lines become the events to come (log entry 2). A program with a line that cannot be presented is not
loaded. -/
def State.load (s : State) (program : List Line) : Option State :=
  (program.mapM Line.event).map fun es => { s with inputs := es }

end Sys2Proof.Machine
end

