-- ==== Sys2Proof/WellFormed.lean ====
section
/-! DEFINITION. Which terms of `Instr` stand for a row of the table: the operands must be ones the row's pattern matches. -/

namespace Sys2Proof

/-- The 22 codes of 30_encoding.md R43, by their three ranges. -/
def isHexCode (c : Byte) : Bool :=
  (0x30 ≤ c.toNat && c.toNat ≤ 0x39) || (0x41 ≤ c.toNat && c.toNat ≤ 0x46) || (0x61 ≤ c.toNat && c.toNat ≤ 0x66)

/-- A `lenOdd` carries an odd length (pattern `...1`, R44), and a `charInvalid` a code outside R43 (R58). The other rows
leave nothing open but the lanes' contents, which any value may fill. -/
def WellFormed : Instr → Bool
  | .lenOdd n _ => n.getLsbD 0
  | .charInvalid _ code => !isHexCode code
  | .len0 _ | .encode2 _ | .encode4 _ | .encode6 _ | .encode8 _ | .lenLong10 _ | .lenLong12 _ | .lenLong14 _ => true
  | .hex0 _ | .hex1 _ | .hex2 _ | .hex3 _ | .hex4 _ | .hex5 _ | .hex6 _ | .hex7 _ | .hex8 _ | .hex9 _ => true
  | .hexA _ | .hexB _ | .hexC _ | .hexD _ | .hexE _ | .hexF _ => true
  | .hexALc _ | .hexBLc _ | .hexCLc _ | .hexDLc _ | .hexELc _ | .hexFLc _ => true

end Sys2Proof
end

