-- ==== Sys2Proof/Safety.lean ====
section
/-! DEFINITION. The terms in which statements about the block are written: what a legal request is, read from the spec's
tables in natural numbers and apart from the units' own definitions; what the registers of a safe run hold; and a reference
decoder, which is no part of the block. -/

namespace Sys2Proof.Machine

/-- The legal code points: `[0, 0xD7FF]` and `[0xE000, 0x10FFFF]` (44_encode.md R88; the constants of 00_scope.md R7). -/
abbrev LegalValue (v : Nat) : Prop := v < Config.surrLo ∨ (Config.surrHi < v ∧ v ≤ Config.cpMax)

/-- The value of a hex digit's code (30_encoding.md R43); 0 for another code. -/
def digitValue (c : Byte) : Nat :=
  if 0x30 ≤ c.toNat ∧ c.toNat ≤ 0x39 then c.toNat - 0x30
  else if 0x41 ≤ c.toNat ∧ c.toNat ≤ 0x46 then c.toNat - 0x41 + 10
  else if 0x61 ≤ c.toNat ∧ c.toNat ≤ 0x66 then c.toNat - 0x61 + 10
  else 0

/-- `Σ digit_i · 16^(n-1-i)` over the first `n` lanes, as a natural number (20_memory.md R31). -/
def stringValue (n : Nat) (chars : Chars) : Nat :=
  ∑ i ∈ Finset.range n, digitValue (lane chars i) * 16 ^ (n - 1 - i)

/-- Every one of the first `n` lanes holds one of the 22 codes of 30_encoding.md R43. -/
abbrev AllHex (n : Nat) (chars : Chars) : Prop := ∀ i, i < n → isHexCode (lane chars i) = true

/-- `i` is the row of an accepted length `n`, with `chars` on the bus (30_encoding.md R44). -/
abbrev EncodeRow (n : Nat) (chars : Chars) (i : Instr) : Prop :=
  (n = 2 ∧ i = .encode2 chars) ∨ (n = 4 ∧ i = .encode4 chars) ∨ (n = 6 ∧ i = .encode6 chars) ∨ (n = 8 ∧ i = .encode8 chars)

/-- `i` is the row of a rejected length `n`, with `chars` on the bus (30_encoding.md R44). -/
abbrev LengthRow (n : Nat) (chars : Chars) (i : Instr) : Prop :=
  (n = 0 ∧ i = .len0 chars) ∨ (∃ m : BitVec 4, n = m.toNat ∧ n % 2 = 1 ∧ i = .lenOdd m chars) ∨
  (n = 10 ∧ i = .lenLong10 chars) ∨ (n = 12 ∧ i = .lenLong12 chars) ∨ (n = 14 ∧ i = .lenLong14 chars)

/-- `i` is the row of length `n`, of any class, with `chars` on the bus. -/
abbrev RequestRow (n : Nat) (chars : Chars) (i : Instr) : Prop := EncodeRow n chars i ∨ LengthRow n chars i

/-- The event is an edge that samples a request (00_scope.md, section 6). -/
abbrev IsRequest (e : Event) : Prop := ∃ n chars, decode e = .instr (decodeRequest n chars)

/-- The event is an edge with `rst = 1`. -/
abbrev IsReset (e : Event) : Prop := ∃ chars, decode e = .reset chars

/-- The event is an edge with `rst = 0` and `in_valid = 0`. -/
abbrev IsIdle (e : Event) : Prop := ∃ chars, decode e = .idle chars

/-! A strict UTF-8 decoder (44_encode.md R87: "any standards-compliant UTF-8 decoder"). It is written from the byte classes of
30_encoding.md R50 and general knowledge, and is no part of the block (00_scope.md R3; PRESUMED, log entry 11). -/

/-- A continuation byte's six payload bits, or none. -/
def contPayload (b : Byte) : Option Nat :=
  if b.toNat / 64 = 2 then some (b.toNat % 64) else none

/-- The code point of one whole sequence: the lead byte's class must show its length, the others must be continuation bytes,
the value must be legal, and the form the shortest. -/
def utf8Decode : List Byte → Option Nat
  | [a] => if a.toNat < 0x80 then some a.toNat else none
  | [a, b] => do
    let y ← contPayload b
    let v := a.toNat % 32 * 64 + y
    if a.toNat / 32 = 6 ∧ 0x80 ≤ v then some v else none
  | [a, b, c] => do
    let y ← contPayload b
    let z ← contPayload c
    let v := a.toNat % 16 * 4096 + y * 64 + z
    if a.toNat / 16 = 14 ∧ 0x800 ≤ v ∧ LegalValue v then some v else none
  | [a, b, c, d] => do
    let x ← contPayload b
    let y ← contPayload c
    let z ← contPayload d
    let v := a.toNat % 8 * 262144 + x * 4096 + y * 64 + z
    if a.toNat / 8 = 30 ∧ 0x10000 ≤ v ∧ LegalValue v then some v else none
  | _ => none

/-- What the registers hold in a safe run, that is, after any request or reset edge (10_state.md R17 to R22, R24; 20_memory.md
R34; 30_encoding.md R46, R52): a success with bytes that decode to `out_cp`, or a failure with no bytes and one cause, or
the reset values. -/
abbrev Coherent (r : Regs) : Prop :=
  (∀ k, k < 4 → r.outNbytes.toNat ≤ k → blane r.outBytes (k + 1) = 0#8) ∧
  ((r.outOk = true ∧ r.outErr = 0#2 ∧ 1 ≤ r.outNbytes.toNat ∧ r.outNbytes.toNat ≤ 4 ∧ r.outPlane = r.outNbytes ∧
      LegalValue r.outCp.toNat ∧ utf8Decode (byteSeq r.outNbytes r.outBytes) = some r.outCp.toNat) ∨
    (r.outOk = false ∧ r.outNbytes = 0#3 ∧ r.outPlane = 0#3 ∧
      ((r.outErr = 0#2 ∧ r.outCp = 0#32 ∧ r.outValid = false) ∨ (r.outErr = 1#2 ∧ r.outCp = 0#32) ∨
        (r.outErr = 2#2 ∧ r.outCp = 0#32) ∨ (r.outErr = 3#2 ∧ ¬LegalValue r.outCp.toNat))))

/-- A digit's character in the chosen case (30_encoding.md R43). -/
def digitChar (upper : Bool) (d : BitVec 4) : Byte :=
  if d.toNat < 10 then BitVec.ofNat 8 (0x30 + d.toNat)
  else if upper then BitVec.ofNat 8 (0x37 + d.toNat)
  else BitVec.ofNat 8 (0x57 + d.toNat)

/-- Lane `i` of the bus that spells `cp` in `n` digits: digit `i`, most significant first, in the case that bit `i` of `upper`
chooses; a lane past the string holds what `other` has there. -/
def spellLane (n : Nat) (upper : BitVec 8) (cp : CodePoint) (other : Chars) (i : Nat) : Byte :=
  if i < n then digitChar (upper.getLsbD i) (cp.extractLsb' (4 * (n - 1 - i)) 4) else lane other i

/-- The bus that spells `cp` in `n` digits: `hex(cp)` of 44_encode.md R87, in any mix of cases. -/
def spell (n : Nat) (upper : BitVec 8) (cp : CodePoint) (other : Chars) : Chars :=
  let c := spellLane n upper cp other
  c 7 ++ c 6 ++ c 5 ++ c 4 ++ c 3 ++ c 2 ++ c 1 ++ c 0

end Sys2Proof.Machine
end

