-- ==== Sys2Proof/Certificates/Slice0/Obligations.lean ====
section
/-! DEFINITION. The statements for the provers. -/

open Sys2Proof Sys2Proof.Machine

/-! ### Encodings -/

/-- Decoding the encoding of a well-formed instruction gives it back, with every operand. -/
def Obligations.DecodeEncodeIsIdentity : Prop :=
  ∀ i : Instr, WellFormed i = true → decode (encode i) = .instr i

/-- Each event decodes to at most one instruction, a well-formed one, and that instruction encodes to this very event. -/
def Obligations.EncodeDecodeIsIdentity : Prop :=
  ∀ (e : Event) (i : Instr), decode e = .instr i → WellFormed i = true ∧ encode i = e

/-- The length decode (R44): each of the nine patterns matches exactly its own lengths. -/
def Obligations.LengthPatternsSelectTheirRows : Prop :=
  ∀ (n : BitVec 4) (chars : Chars),
    (decodeRequest n chars = .len0 chars ↔ n.toNat = 0) ∧
    (decodeRequest n chars = .lenOdd n chars ↔ n.toNat % 2 = 1) ∧
    (decodeRequest n chars = .encode2 chars ↔ n.toNat = 2) ∧
    (decodeRequest n chars = .encode4 chars ↔ n.toNat = 4) ∧
    (decodeRequest n chars = .encode6 chars ↔ n.toNat = 6) ∧
    (decodeRequest n chars = .encode8 chars ↔ n.toNat = 8) ∧
    (decodeRequest n chars = .lenLong10 chars ↔ n.toNat = 10) ∧
    (decodeRequest n chars = .lenLong12 chars ↔ n.toNat = 12) ∧
    (decodeRequest n chars = .lenLong14 chars ↔ n.toNat = 14)

/-- A few numbers of the opcode table decode to their rows. -/
def Obligations.TableWordsDecodeToTheirRows : Prop :=
  decodeTableWord 8 0x0 = some (.len0 0) ∧ decodeTableWord 8 0x1 = some (.lenOdd 1 0) ∧
  decodeTableWord 8 0x4 = some (.encode4 0) ∧ decodeTableWord 8 0xE = some (.lenLong14 0) ∧
  decodeTableWord 8 0x39 = some (.hex9 0) ∧ decodeTableWord 8 0x46 = some (.hexF 0) ∧
  decodeTableWord 8 0x61 = some (.hexALc 0) ∧ decodeTableWord 8 0x47 = some (.charInvalid 0 0x47)

/-- The text form `ENCODE "<s>"` (R53): the length, and each character's code in its lane, with 0x00 in an unused lane. -/
def Obligations.TextLinePresentsItsString : Prop :=
  ∀ s : List Char, s.length ≤ 15 → (∀ c ∈ s, c.toNat < 128) →
    ∃ n chars, (Line.encode s).event = some (requestEvent n chars) ∧ n.toNat = s.length ∧
      ∀ j, j < 8 → (lane chars j).toNat = (s[j]?.map Char.toNat).getD 0

/-! ### The hex-digit decoder and its rows. That a row of format 'char' shows its effect on the field `lanes`, between edges, is
the model's choice (log entry 3). -/

/-- The rows of the ten decimal digits complete, give their values on their lane, and change nothing else. -/
def Obligations.DecimalDigitRowsGiveTheirValues : Prop :=
  ∀ (l : LaneNo) (s : State),
    exec (.hex0 l) s = .next { s with lanes := s.lanes.set l ⟨true, 0#4⟩ } ∧
    exec (.hex1 l) s = .next { s with lanes := s.lanes.set l ⟨true, 1#4⟩ } ∧
    exec (.hex2 l) s = .next { s with lanes := s.lanes.set l ⟨true, 2#4⟩ } ∧
    exec (.hex3 l) s = .next { s with lanes := s.lanes.set l ⟨true, 3#4⟩ } ∧
    exec (.hex4 l) s = .next { s with lanes := s.lanes.set l ⟨true, 4#4⟩ } ∧
    exec (.hex5 l) s = .next { s with lanes := s.lanes.set l ⟨true, 5#4⟩ } ∧
    exec (.hex6 l) s = .next { s with lanes := s.lanes.set l ⟨true, 6#4⟩ } ∧
    exec (.hex7 l) s = .next { s with lanes := s.lanes.set l ⟨true, 7#4⟩ } ∧
    exec (.hex8 l) s = .next { s with lanes := s.lanes.set l ⟨true, 8#4⟩ } ∧
    exec (.hex9 l) s = .next { s with lanes := s.lanes.set l ⟨true, 9#4⟩ }

/-- The rows of the letters complete: upper and lower case give the same value on their lane, and change nothing else. -/
def Obligations.LetterRowsGiveTheirValues : Prop :=
  ∀ (l : LaneNo) (s : State),
    (exec (.hexA l) s = .next { s with lanes := s.lanes.set l ⟨true, 10#4⟩ } ∧ exec (.hexALc l) s = exec (.hexA l) s) ∧
    (exec (.hexB l) s = .next { s with lanes := s.lanes.set l ⟨true, 11#4⟩ } ∧ exec (.hexBLc l) s = exec (.hexB l) s) ∧
    (exec (.hexC l) s = .next { s with lanes := s.lanes.set l ⟨true, 12#4⟩ } ∧ exec (.hexCLc l) s = exec (.hexC l) s) ∧
    (exec (.hexD l) s = .next { s with lanes := s.lanes.set l ⟨true, 13#4⟩ } ∧ exec (.hexDLc l) s = exec (.hexD l) s) ∧
    (exec (.hexE l) s = .next { s with lanes := s.lanes.set l ⟨true, 14#4⟩ } ∧ exec (.hexELc l) s = exec (.hexE l) s) ∧
    (exec (.hexF l) s = .next { s with lanes := s.lanes.set l ⟨true, 15#4⟩ } ∧ exec (.hexFLc l) s = exec (.hexF l) s)

/-- The default row completes: any code that is no hex digit gives `ok = 0` and the value 0 on its lane (R58). A code from
0x80 up is such a code: bit 7 is not ignored. -/
def Obligations.InvalidCharRowGivesZero : Prop :=
  (∀ (l : LaneNo) (c : Byte) (s : State), isHexCode c = false →
    decodeChar l c = .charInvalid l c ∧
    exec (.charInvalid l c) s = .next { s with lanes := s.lanes.set l ⟨false, 0#4⟩ }) ∧
  ∀ c : Byte, 0x80 ≤ c.toNat → isHexCode c = false

/-- For every code and lane, the row the table selects puts out what `HEXVAL` computes (R56); `HEXVAL` accepts the 22 codes
of R43 with their values, and its gate form agrees on them. -/
def Obligations.CharRowsAgreeWithHexval : Prop :=
  ∀ (l : LaneNo) (c : Byte) (s : State),
    exec (decodeChar l c) s = .next { s with lanes := s.lanes.set l (hexval c) } ∧
    (hexval c).ok = isHexCode c ∧ (hexval c).v.toNat = digitValue c ∧
    ((hexval c).ok = true → (hexval c).v = hexvalGate c)

/-- The frame of the character rows: no register changes, no event is consumed, and no other lane changes. -/
def Obligations.CharRowsChangeOneLaneOnly : Prop :=
  ∀ (i : Instr) (l : LaneNo) (c : Byte) (s : State), encode i = .lane l c →
    ∃ t, exec i s = .next t ∧ t.regs = s.regs ∧ t.inputs = s.inputs ∧
      ∀ j : LaneNo, j ≠ l → t.lanes[j] = s.lanes[j]

/-- Case does not matter (R57): the six letters have one value in either case, and a request whose significant lanes differ
from another's only in the case of letters gives the same seven registers. -/
def Obligations.CaseDoesNotMatter : Prop :=
  (∀ k : Nat, k < 6 → hexval (BitVec.ofNat 8 (0x41 + k)) = ⟨true, BitVec.ofNat 4 (10 + k)⟩ ∧
    hexval (BitVec.ofNat 8 (0x61 + k)) = ⟨true, BitVec.ofNat 4 (10 + k)⟩) ∧
  parse 4#4 (packChars ['a', 'B', 'c', 'D']) = ⟨.errNone, 0xABCD#32⟩ ∧
  ∀ (n : Nat) (chars chars' : Chars) (i i' : Instr) (s : State),
    EncodeRow n chars i → EncodeRow n chars' i' →
    (∀ j, j < n → lane chars' j = lane chars j ∨
      (((0x41 ≤ (lane chars j).toNat ∧ (lane chars j).toNat ≤ 0x46) ∨
          (0x61 ≤ (lane chars j).toNat ∧ (lane chars j).toNat ≤ 0x66)) ∧
        lane chars' j = lane chars j ^^^ 0x20#8)) →
    ∃ t t', exec i s = .next t ∧ exec i' s = .next t' ∧ t'.regs = t.regs

/-! ### The hex accumulator -/

/-- The accepted lengths are exactly 2, 4, 6 and 8 (R61). -/
def Obligations.AcceptedLengthsAreTwoFourSixEight : Prop :=
  ∀ n : BitVec 4, lengthOk n = true ↔ n.toNat = 2 ∨ n.toNat = 4 ∨ n.toNat = 6 ∨ n.toNat = 8

/-- The sum and the shifted concatenation are one function on the accepted lengths (R63). -/
def Obligations.AccumulatorFormsAgree : Prop :=
  ∀ (n : BitVec 4) (chars : Chars), n.toNat = 2 ∨ n.toNat = 4 ∨ n.toNat = 6 ∨ n.toNat = 8 →
    accumulate n chars = accumulateShift n chars

/-- Digit `j` lands in bits `[4(n-1-j)+3 : 4(n-1-j)]`, every bit above the digits is 0, and no carry moves between terms: the
sum is a bitwise OR (R45, R64). -/
def Obligations.DigitsLandInTheirNibbles : Prop :=
  ∀ (n : BitVec 4) (chars : Chars), n.toNat = 2 ∨ n.toNat = 4 ∨ n.toNat = 6 ∨ n.toNat = 8 →
    (∀ j, j < n.toNat → (accumulate n chars).extractLsb' (4 * (n.toNat - 1 - j)) 4 = (hexval (lane chars j)).v) ∧
    (accumulate n chars).toNat < 16 ^ n.toNat ∧
    accumulate n chars = (List.range n.toNat).foldl (fun bits i => bits ||| digitTerm n chars i) 0#32

/-- A request whose significant lanes are hex digits records the string's big-endian value in `out_cp`, legal or not (R31). -/
def Obligations.ParsedValueIsBigEndianSum : Prop :=
  ∀ (n : Nat) (chars : Chars) (i : Instr) (s : State), EncodeRow n chars i → AllHex n chars →
    ∃ t, exec i s = .next t ∧ t.regs.outCp.toNat = stringValue n chars

/-- Two leading `'0'` characters before a string do not change the result (R65). -/
def Obligations.LeadingZerosDoNotChangeTheResult : Prop :=
  ∀ (n : Nat) (chars : Chars) (i i' : Instr) (s : State),
    EncodeRow n chars i → EncodeRow (n + 2) (chars <<< 16 ||| 0x3030#64) i' →
    ∃ t t', exec i s = .next t ∧ exec i' s = .next t' ∧ t'.regs = t.regs

/-- Any two accepted spellings of one value give the same seven registers, whatever their lengths (R66, R108). -/
def Obligations.EverySpellingGivesTheSameResult : Prop :=
  ∀ (n n' : Nat) (chars chars' : Chars) (i i' : Instr) (s : State),
    EncodeRow n chars i → EncodeRow n' chars' i' → AllHex n chars → AllHex n' chars' →
    stringValue n chars = stringValue n' chars' →
    ∃ t t', exec i s = .next t ∧ exec i' s = .next t' ∧ t'.regs = t.regs

/-- Only 8-digit strings give values above 0x00FFFFFF (R71). -/
def Obligations.OnlyEightDigitsExceedTwentyFourBits : Prop :=
  ∀ (n : Nat) (chars : Chars) (i : Instr) (s : State), RequestRow n chars i →
    ∃ t, exec i s = .next t ∧ (0x00FFFFFF < t.regs.outCp.toNat → n = 8)

/-! ### The classifier and the packer -/

/-- The seven ranges of R68, as natural numbers. -/
def Obligations.ClassifierRanges : Prop :=
  ∀ cp : CodePoint,
    (classify cp = .ascii ↔ cp.toNat ≤ 0x7F) ∧
    (classify cp = .latin ↔ 0x80 ≤ cp.toNat ∧ cp.toNat ≤ 0x7FF) ∧
    (classify cp = .multilingual ↔ (0x800 ≤ cp.toNat ∧ cp.toNat ≤ 0xD7FF) ∨ (0xE000 ≤ cp.toNat ∧ cp.toNat ≤ 0xFFFF)) ∧
    (classify cp = .extended ↔ 0x10000 ≤ cp.toNat ∧ cp.toNat ≤ 0x10FFFF) ∧
    (classify cp = .invalid ↔ (0xD800 ≤ cp.toNat ∧ cp.toNat ≤ 0xDFFF) ∨ 0x110000 ≤ cp.toNat)

/-- `INVALID` and the reserved plane codes pack to no bytes (R78). -/
def Obligations.InvalidPlanePacksNoBytes : Prop :=
  ∀ (cp : CodePoint) (code : BitVec 3), code.toNat = 0 ∨ 5 ≤ code.toNat → pack cp code = ⟨0#3, 0#32⟩

/-- The packing table by its letters (R79): `u` to `z` are the nibbles 5 down to 0 of the value. -/
def Obligations.PackingTableLetters : Prop :=
  ∀ (hi : BitVec 8) (u v w x y z : BitVec 4),
    let cp : CodePoint := hi ++ u ++ v ++ w ++ x ++ y ++ z
    let yyzzzz : BitVec 6 := y.extractLsb' 0 2 ++ z
    let xxxxyy : BitVec 6 := x ++ y.extractLsb' 2 2
    pack cp 1#3 = ⟨1#3, 0#24 ++ (0#1 ++ y.extractLsb' 0 3 ++ z : BitVec 8)⟩ ∧
    pack cp 2#3 = ⟨2#3, 0#16 ++ (0b10#2 ++ yyzzzz) ++ (0b110#3 ++ x.extractLsb' 0 3 ++ y.extractLsb' 2 2)⟩ ∧
    pack cp 3#3 = ⟨3#3, 0#8 ++ (0b10#2 ++ yyzzzz) ++ (0b10#2 ++ xxxxyy) ++ (0b1110#4 ++ w)⟩ ∧
    pack cp 4#3 = ⟨4#3, (0b10#2 ++ yyzzzz) ++ (0b10#2 ++ xxxxyy) ++ (0b10#2 ++ v.extractLsb' 0 2 ++ w) ++
      (0b11110#5 ++ u.extractLsb' 0 1 ++ v.extractLsb' 2 2)⟩

/-! ### Requests that succeed: one statement per plane. Each gives all seven registers. -/

/-- A request that spells a value up to 0x7F gives one byte, equal to the value (R74). -/
def Obligations.AsciiRequestGivesOneByte : Prop :=
  ∀ (n : Nat) (chars : Chars) (i : Instr) (s : State), EncodeRow n chars i → AllHex n chars →
    stringValue n chars ≤ 0x7F →
    let cp := BitVec.ofNat 32 (stringValue n chars)
    ∃ t, exec i s = .next t ∧ t.regs =
      { outValid := true, outOk := true, outErr := 0#2, outNbytes := 1#3
        outBytes := 0#24 ++ (0#1 ++ cp.extractLsb' 0 7), outCp := cp, outPlane := 1#3 } ∧
      (0#24 ++ (0#1 ++ cp.extractLsb' 0 7) : BitVec 32).toNat = stringValue n chars

/-- A request that spells a value from 0x80 to 0x7FF gives two bytes (R75). -/
def Obligations.LatinRequestGivesTwoBytes : Prop :=
  ∀ (n : Nat) (chars : Chars) (i : Instr) (s : State), EncodeRow n chars i → AllHex n chars →
    0x80 ≤ stringValue n chars → stringValue n chars ≤ 0x7FF →
    let cp := BitVec.ofNat 32 (stringValue n chars)
    ∃ t, exec i s = .next t ∧ t.regs =
      { outValid := true, outOk := true, outErr := 0#2, outNbytes := 2#3
        outBytes := 0#16 ++ (0b10#2 ++ cp.extractLsb' 0 6) ++ (0b110#3 ++ cp.extractLsb' 6 5)
        outCp := cp, outPlane := 2#3 }

/-- A request that spells a value from 0x800 to 0xFFFF outside the surrogates gives three bytes (R76). -/
def Obligations.MultilingualRequestGivesThreeBytes : Prop :=
  ∀ (n : Nat) (chars : Chars) (i : Instr) (s : State), EncodeRow n chars i → AllHex n chars →
    0x800 ≤ stringValue n chars → stringValue n chars ≤ 0xFFFF →
    ¬(0xD800 ≤ stringValue n chars ∧ stringValue n chars ≤ 0xDFFF) →
    let cp := BitVec.ofNat 32 (stringValue n chars)
    ∃ t, exec i s = .next t ∧ t.regs =
      { outValid := true, outOk := true, outErr := 0#2, outNbytes := 3#3
        outBytes := 0#8 ++ (0b10#2 ++ cp.extractLsb' 0 6) ++ (0b10#2 ++ cp.extractLsb' 6 6) ++
          (0b1110#4 ++ cp.extractLsb' 12 4)
        outCp := cp, outPlane := 3#3 }

/-- A request that spells a value from 0x10000 to 0x10FFFF gives four bytes (R77). -/
def Obligations.ExtendedRequestGivesFourBytes : Prop :=
  ∀ (n : Nat) (chars : Chars) (i : Instr) (s : State), EncodeRow n chars i → AllHex n chars →
    0x10000 ≤ stringValue n chars → stringValue n chars ≤ 0x10FFFF →
    let cp := BitVec.ofNat 32 (stringValue n chars)
    ∃ t, exec i s = .next t ∧ t.regs =
      { outValid := true, outOk := true, outErr := 0#2, outNbytes := 4#3
        outBytes := (0b10#2 ++ cp.extractLsb' 0 6) ++ (0b10#2 ++ cp.extractLsb' 6 6) ++
          (0b10#2 ++ cp.extractLsb' 12 6) ++ (0b11110#5 ++ cp.extractLsb' 18 3)
        outCp := cp, outPlane := 4#3 }

/-! ### Requests that fail: one statement per cause. Each gives all seven registers. -/

/-- A request of a rejected length records ERR_LENGTH and nothing else (R89). -/
def Obligations.RejectedLengthRecordsLengthFailure : Prop :=
  ∀ (n : Nat) (chars : Chars) (i : Instr) (s : State), LengthRow n chars i →
    ∃ t, exec i s = .next t ∧ t.regs =
      { outValid := true, outOk := false, outErr := 1#2, outNbytes := 0#3, outBytes := 0#32, outCp := 0#32
        outPlane := 0#3 }

/-- A request of an accepted length with a code that is no hex digit in some significant lane records ERR_DIGIT (R90). -/
def Obligations.BadDigitRecordsDigitFailure : Prop :=
  ∀ (n j : Nat) (chars : Chars) (i : Instr) (s : State), EncodeRow n chars i → j < n →
    isHexCode (lane chars j) = false →
    ∃ t, exec i s = .next t ∧ t.regs =
      { outValid := true, outOk := false, outErr := 2#2, outNbytes := 0#3, outBytes := 0#32, outCp := 0#32
        outPlane := 0#3 }

/-- A request that spells a surrogate or a value above 0x10FFFF records ERR_CODEPOINT and the value; no 2-digit request can
do so (R91). -/
def Obligations.IllegalValueRecordsCodePointFailure : Prop :=
  ∀ (n : Nat) (chars : Chars) (i : Instr) (s : State), EncodeRow n chars i → AllHex n chars →
    (0xD800 ≤ stringValue n chars ∧ stringValue n chars ≤ 0xDFFF) ∨ 0x10FFFF < stringValue n chars →
    ∃ t, exec i s = .next t ∧ t.regs =
      { outValid := true, outOk := false, outErr := 3#2, outNbytes := 0#3, outBytes := 0#32
        outCp := BitVec.ofNat 32 (stringValue n chars), outPlane := 0#3 } ∧
      n ≠ 2

/-- Which requests succeed (R88), and how long a string a value needs. -/
def Obligations.RequestSucceedsExactlyWhenLegal : Prop :=
  ∀ (n : Nat) (chars : Chars) (i : Instr) (s : State), RequestRow n chars i →
    ∃ t, exec i s = .next t ∧
      (t.regs.outOk = true ↔
        (n = 2 ∨ n = 4 ∨ n = 6 ∨ n = 8) ∧ AllHex n chars ∧
          (stringValue n chars ≤ 0xD7FF ∨ (0xE000 ≤ stringValue n chars ∧ stringValue n chars ≤ 0x10FFFF))) ∧
      (t.regs.outOk = true → t.regs.outCp.toNat < 16 ^ n ∧ (0x10000 ≤ t.regs.outCp.toNat → n = 6 ∨ n = 8))

/-- Exactly one cause is reported, the first in the order length, digit, code point (R92). -/
def Obligations.FirstFailureCauseIsReported : Prop :=
  ∀ (n : Nat) (chars : Chars) (i : Instr) (s : State), RequestRow n chars i →
    ∃ t, exec i s = .next t ∧
      t.regs.outErr =
        if ¬(n = 2 ∨ n = 4 ∨ n = 6 ∨ n = 8) then 1#2
        else if ¬AllHex n chars then 2#2
        else if ¬(stringValue n chars ≤ 0xD7FF ∨ (0xE000 ≤ stringValue n chars ∧ stringValue n chars ≤ 0x10FFFF)) then 3#2
        else 0#2

/-- Every failure shows the same signal, with no byte of a partial encoding, and `out_err` is 0 exactly on success (R82,
R18). -/
def Obligations.FailureSignalIsUniform : Prop :=
  ∀ (n : Nat) (chars : Chars) (i : Instr) (s : State), RequestRow n chars i →
    ∃ t, exec i s = .next t ∧ (t.regs.outErr = 0#2 ↔ t.regs.outOk = true) ∧
      (t.regs.outOk = false → t.regs.outNbytes = 0#3 ∧ t.regs.outBytes = 0#32 ∧ t.regs.outPlane = 0#3)

/-! ### What holds of every request -/

/-- The frame of the request rows: they raise `out_valid`, let the eight lane decoders follow the bus (R59; the field `lanes` is
the model's choice, log entry 3), and consume no event. -/
def Obligations.RequestRowsFrame : Prop :=
  ∀ (n : Nat) (chars : Chars) (i : Instr) (s : State), RequestRow n chars i →
    ∃ t, exec i s = .next t ∧ t.regs.outValid = true ∧ t.inputs = s.inputs ∧
      ∀ j : LaneNo, t.lanes[j] = hexval (lane chars j)

/-- The result does not depend on what the registers, the lanes or the events held before (R86). -/
def Obligations.ResultDependsOnRequestOnly : Prop :=
  ∀ (n : Nat) (chars : Chars) (i : Instr) (s s' : State), RequestRow n chars i →
    ∃ t t', exec i s = .next t ∧ exec i s' = .next t' ∧ t'.regs = t.regs

/-- Unused lanes do not matter (R85): requests that agree on the lanes 0 to `min(n, 8) - 1` give the same registers, and with
a rejected length the lanes do not matter at all. -/
def Obligations.UnusedLanesDoNotMatter : Prop :=
  ∀ (n : Nat) (chars chars' : Chars) (i i' : Instr) (s : State), RequestRow n chars i → RequestRow n chars' i' →
    (∀ j, j < min n 8 → lane chars' j = lane chars j) ∨ LengthRow n chars i →
    ∃ t t', exec i s = .next t ∧ exec i' s = .next t' ∧ t'.regs = t.regs

/-- Byte lanes above `out_nbytes` are 0, on success and on failure (R34). -/
def Obligations.UnusedByteLanesAreZero : Prop :=
  ∀ (n : Nat) (chars : Chars) (i : Instr) (s : State), RequestRow n chars i →
    ∃ t, exec i s = .next t ∧
      (∀ k, 1 ≤ k → k ≤ 4 → t.regs.outNbytes.toNat < k → blane t.regs.outBytes k = 0#8) ∧
      (t.regs.outOk = false → t.regs.outNbytes = 0#3)

/-- On success the lead byte alone shows the length, and every later byte is a continuation byte (R50). -/
def Obligations.LeadByteShowsTheLength : Prop :=
  ∀ (n : Nat) (chars : Chars) (i : Instr) (s : State), RequestRow n chars i →
    ∃ t, exec i s = .next t ∧
      (t.regs.outOk = true → shownLength (blane t.regs.outBytes 1) = some t.regs.outNbytes ∧
        ∀ k, 2 ≤ k → k ≤ t.regs.outNbytes.toNat → byteClass (blane t.regs.outBytes k) = .continuation)

/-- The bytes C0, C1 and F5 to FF are never produced, a 4-byte lead is F0 to F4, ED is never followed by A0 or above, and
every sequence is the shortest form (R80). -/
def Obligations.OnlyShortestFormsAreProduced : Prop :=
  ∀ (n : Nat) (chars : Chars) (i : Instr) (s : State), RequestRow n chars i →
    ∃ t, exec i s = .next t ∧
      (∀ k, 1 ≤ k → k ≤ 4 →
        blane t.regs.outBytes k ≠ 0xC0#8 ∧ blane t.regs.outBytes k ≠ 0xC1#8 ∧ (blane t.regs.outBytes k).toNat < 0xF5) ∧
      (t.regs.outNbytes = 4#3 → 0xF0 ≤ (blane t.regs.outBytes 1).toNat ∧ (blane t.regs.outBytes 1).toNat ≤ 0xF4) ∧
      (blane t.regs.outBytes 1 = 0xED#8 → (blane t.regs.outBytes 2).toNat < 0xA0) ∧
      (blane t.regs.outBytes 1 = 0xE0#8 → 0xA0 ≤ (blane t.regs.outBytes 2).toNat) ∧
      (blane t.regs.outBytes 1 = 0xF0#8 → 0x90 ≤ (blane t.regs.outBytes 2).toNat) ∧
      (blane t.regs.outBytes 1 = 0xF4#8 → (blane t.regs.outBytes 2).toNat ≤ 0x8F)

/-- The round-trip law (R87): every legal code point, in every accepted spelling (any length that holds it, any mix of cases,
anything in the unused lanes), encodes to bytes that a strict UTF-8 decoder reads back as the code point. The decoder is the
model's own reference (PRESUMED, log entry 11), no part of the block. -/
def Obligations.EncodedBytesDecodeToTheCodePoint : Prop :=
  ∀ (n : Nat) (upper : BitVec 8) (cp : CodePoint) (other : Chars) (i : Instr) (s : State),
    EncodeRow n (spell n upper cp other) i → cp.toNat < 16 ^ n → LegalValue cp.toNat →
    ∃ t, exec i s = .next t ∧ t.regs.outValid = true ∧ t.regs.outOk = true ∧ t.regs.outCp = cp ∧
      utf8Decode (byteSeq t.regs.outNbytes t.regs.outBytes) = some cp.toNat

/-! ### The register stage. That the edges to come stand in the field `inputs` is the model's choice (log entry 4). -/

/-- A step whose next event decodes to an instruction is that instruction's `exec`, after the event is taken. -/
def Obligations.StepRunsTheDecodedInstruction : Prop :=
  ∀ (s : State) (e : Event) (rest : List Event) (i : Instr), s.inputs = e :: rest → decode e = .instr i →
    step s = exec i { s with inputs := rest }

/-- The state after reset holds the values of R24. -/
def Obligations.ResetStateHoldsTheResetValues : Prop :=
  State.reset.regs.outValid = false ∧ State.reset.regs.outOk = false ∧ State.reset.regs.outErr = 0#2 ∧
  State.reset.regs.outNbytes = 0#3 ∧ State.reset.regs.outBytes = 0#32 ∧ State.reset.regs.outCp = 0#32 ∧
  State.reset.regs.outPlane = 0#3

/-- A reset edge gives the reset values from any state, at power-up too, and drops a request presented with it (R101, R102,
R25). -/
def Obligations.ResetEdgeClearsAndDropsTheRequest : Prop :=
  ∀ (s : State) (p : PortSample) (rest : List Event), s.inputs = .edge p :: rest → p.stable = true →
    p.rst.val = 1#1 →
    ∃ t, step s = .next t ∧ t.regs =
      { outValid := false, outOk := false, outErr := 0#2, outNbytes := 0#3, outBytes := 0#32, outCp := 0#32
        outPlane := 0#3 }

/-- Reset held for any number of edges, one or more, gives the same registers, and the first edge after it may sample a
request, whose result is then in the registers (R103). -/
def Obligations.ResetMayBeHeldAndIsReadyAtOnce : Prop :=
  ∀ (s : State) (held rest : List Event) (n : BitVec 4) (chars : Chars), held ≠ [] → (∀ e ∈ held, IsReset e) →
    s.inputs = held ++ requestEvent n chars :: rest →
    ∃ t u, core.run held.length s = .next t ∧ t.regs = State.reset.regs ∧
      core.run (held.length + 1) s = .next u ∧ u.regs = Regs.ofResult (encodeRequest n chars) ∧ u.inputs = rest

/-- At power-up the registers are a free draw (R25; log entry 6), and a first request gives what it gives after reset (R104). -/
def Obligations.FirstRequestAtPowerUpNeedsNoReset : Prop :=
  ∀ (n : BitVec 4) (chars : Chars),
    step { State.powerUp with inputs := [requestEvent n chars] } = step { State.reset with inputs := [requestEvent n chars] }

/-- An idle edge drops `out_valid` and holds the six data registers (R84). -/
def Obligations.IdleEdgeHoldsTheData : Prop :=
  ∀ (s : State) (p : PortSample) (rest : List Event), s.inputs = .edge p :: rest → p.stable = true →
    p.rst.val = 0#1 → p.inValid.val = 0#1 →
    ∃ t, step s = .next t ∧ t.regs =
      { outValid := false, outOk := s.regs.outOk, outErr := s.regs.outErr, outNbytes := s.regs.outNbytes
        outBytes := s.regs.outBytes, outCp := s.regs.outCp, outPlane := s.regs.outPlane }

/-- A result stays in the data registers over any number of idle edges, with `out_valid = 0` from the first of them (R40). -/
def Obligations.ResultIsHeldUntilTheNextRequest : Prop :=
  ∀ (s : State) (n : BitVec 4) (chars : Chars) (quiet rest : List Event), (∀ e ∈ quiet, IsIdle e) →
    s.inputs = requestEvent n chars :: (quiet ++ rest) →
    ∃ t, core.run (quiet.length + 1) s = .next t ∧ t.inputs = rest ∧
      t.regs = { Regs.ofResult (encodeRequest n chars) with outValid := quiet.isEmpty }

/-- `out_valid` is 1 after an edge exactly when the edge sampled a request (R16). -/
def Obligations.OutValidFollowsTheSampledRequest : Prop :=
  ∀ (s : State) (p : PortSample) (rest : List Event), s.inputs = .edge p :: rest → p.stable = true →
    ∃ t, step s = .next t ∧ (t.regs.outValid = true ↔ p.rst.val = 0#1 ∧ p.inValid.val = 1#1)

/-- Requests may be presented at every edge: after a run of them, back to back, the registers hold the last one's result, and
after each one its own (R105). -/
def Obligations.BackToBackRequestsAreAllServed : Prop :=
  ∀ (s : State) (reqs : List (BitVec 4 × Chars)) (rest : List Event),
    s.inputs = reqs.map (fun r => requestEvent r.1 r.2) ++ rest →
    ∀ k n chars, reqs[k]? = some (n, chars) →
      ∃ t, core.run (k + 1) s = .next t ∧ t.regs = Regs.ofResult (encodeRequest n chars)

/-- An edge at which any of the four sampled inputs carries an unknown or changing bit is refused (R107). -/
def Obligations.UnknownInputIsRefused : Prop :=
  ∀ (s : State) (p : PortSample) (rest : List Event), s.inputs = .edge p :: rest →
    p.rst.bad ≠ 0#1 ∨ p.inValid.bad ≠ 0#1 ∨ p.inLen.bad ≠ 0#4 ∨ p.inChars.bad ≠ 0#64 →
    step s = .refused .unknownInput

/-- With no edge to come, nothing changes, for any number of steps (R100). That an empty list of events is a stopped clock is
the model's choice (log entry 4). -/
def Obligations.StoppedClockHoldsEveryRegister : Prop :=
  ∀ (k : Nat) (s : State), s.inputs = [] → core.run k s = .next s

/-! ### The whole machine -/

/-- Every instruction completes, in every state: no request traps (R51, R93). -/
def Obligations.EveryInstructionCompletes : Prop :=
  ∀ (i : Instr) (s : State), ∃ t, exec i s = .next t ∧ t.inputs = s.inputs

/-- A machine whose inputs are all known never stops, and takes one event a step, in order (R40, R51). That each step takes the
first entry of the field `inputs`, and that the steps after the last event still answer a next state (an empty list is a stopped
clock), is the model's choice (log entry 4, DESIGN CHOICE). -/
def Obligations.KnownInputsNeverStopTheBlock : Prop :=
  ∀ (k : Nat) (s : State), (∀ e ∈ s.inputs, decode e ≠ .unknownInput) →
    ∃ t, core.run k s = .next t ∧ t.inputs = s.inputs.drop k

/-- Whatever the registers held, at power-up or after any history, one request or reset edge makes two machines with the same
inputs equal for ever (R86, R104). That the states are equal whole, the field `lanes` included, rests on that field (log entry 3,
DESIGN CHOICE) and on the lane decoders following the bus at every edge, a reset edge too (log entry 12, DEDUCED); that the edges
to come stand in the field `inputs`, and that an empty list is a stopped clock, is the model's choice (log entry 4, DESIGN
CHOICE). -/
def Obligations.OneRequestOrResetForgetsAllHistory : Prop :=
  ∀ (s s' : State) (before rest : List Event) (e : Event), (∀ x ∈ before, decode x ≠ .unknownInput) →
    IsRequest e ∨ IsReset e → s.inputs = before ++ e :: rest → s'.inputs = s.inputs →
    ∀ k, core.run (before.length + 1 + k) s = core.run (before.length + 1 + k) s'

/-- The reset state is coherent. -/
def Obligations.ResetStateIsCoherent : Prop := Coherent State.reset.regs

/-- Every step keeps the registers coherent. -/
def Obligations.EveryStepKeepsTheRegistersCoherent : Prop :=
  ∀ s t : State, Coherent s.regs → step s = .next t → Coherent t.regs

/-- A request or reset edge makes the registers coherent from any state, also from one that holds reserved codes at power-up
(R52). -/
def Obligations.RequestOrResetMakesTheRegistersCoherent : Prop :=
  ∀ (s : State) (e : Event) (rest : List Event), s.inputs = e :: rest → IsRequest e ∨ IsReset e →
    ∃ t, step s = .next t ∧ Coherent t.regs
end

