-- ==== Sys2Proof/Laws/Decode.lean ====
section
/-! SUPPORT. What the decoder gives on the two kinds of event an encoding can be. -/

namespace Sys2Proof

/-- A request's edge is read as a request. -/
@[simp] theorem decode_requestEvent (n : BitVec 4) (chars : Chars) :
    decode (requestEvent n chars) = .instr (decodeRequest n chars) := rfl

/-- A lane event is read as a character row. -/
@[simp] theorem decode_lane (i : LaneNo) (code : Byte) : decode (.lane i code) = .instr (decodeChar i code) := rfl

/-- Pins at known levels are stable. -/
@[simp] theorem Pins.known_bad {w : Nat} (v : BitVec w) : (Pins.known v).bad = 0#w := rfl

@[simp] theorem Pins.known_val {w : Nat} (v : BitVec w) : (Pins.known v).val = v := rfl

end Sys2Proof
end

