-- ==== Sys2Proof/Laws/State.lean ====
section
/-! SUPPORT. One lemma per field per update of the state. -/

namespace Sys2Proof.Machine

section
variable (s : State) (r : Regs) (chars : Chars) (i : LaneNo) (h : HexOut) (e : EncodeResult)

@[simp] theorem State.setRegs_regs : (s.setRegs r).regs = r := rfl
@[simp] theorem State.setRegs_lanes : (s.setRegs r).lanes = s.lanes := rfl
@[simp] theorem State.setRegs_inputs : (s.setRegs r).inputs = s.inputs := rfl
@[simp] theorem State.setLanes_regs : (s.setLanes chars).regs = s.regs := rfl
@[simp] theorem State.setLanes_lanes : (s.setLanes chars).lanes = hexLanes chars := rfl
@[simp] theorem State.setLanes_inputs : (s.setLanes chars).inputs = s.inputs := rfl
@[simp] theorem State.setLane_regs : (s.setLane i h).regs = s.regs := rfl
@[simp] theorem State.setLane_lanes : (s.setLane i h).lanes = s.lanes.set i h := rfl
@[simp] theorem State.setLane_inputs : (s.setLane i h).inputs = s.inputs := rfl
@[simp] theorem State.dropValid_lanes : s.dropValid.lanes = s.lanes := rfl
@[simp] theorem State.dropValid_inputs : s.dropValid.inputs = s.inputs := rfl
@[simp] theorem State.dropValid_outValid : s.dropValid.regs.outValid = false := rfl
@[simp] theorem State.dropValid_outOk : s.dropValid.regs.outOk = s.regs.outOk := rfl
@[simp] theorem State.dropValid_outErr : s.dropValid.regs.outErr = s.regs.outErr := rfl
@[simp] theorem State.dropValid_outNbytes : s.dropValid.regs.outNbytes = s.regs.outNbytes := rfl
@[simp] theorem State.dropValid_outBytes : s.dropValid.regs.outBytes = s.regs.outBytes := rfl
@[simp] theorem State.dropValid_outCp : s.dropValid.regs.outCp = s.regs.outCp := rfl
@[simp] theorem State.dropValid_outPlane : s.dropValid.regs.outPlane = s.regs.outPlane := rfl
@[simp] theorem Regs.ofResult_outValid : (Regs.ofResult e).outValid = true := rfl
@[simp] theorem Regs.ofResult_outOk : (Regs.ofResult e).outOk = e.ok := rfl
@[simp] theorem Regs.ofResult_outErr : (Regs.ofResult e).outErr = e.err := rfl
@[simp] theorem Regs.ofResult_outNbytes : (Regs.ofResult e).outNbytes = e.nbytes := rfl
@[simp] theorem Regs.ofResult_outBytes : (Regs.ofResult e).outBytes = e.bytes := rfl
@[simp] theorem Regs.ofResult_outCp : (Regs.ofResult e).outCp = e.cp := rfl
@[simp] theorem Regs.ofResult_outPlane : (Regs.ofResult e).outPlane = e.plane := rfl

end

end Sys2Proof.Machine
end

