-- ==== Sys2Proof/Laws/Ops.lean ====
section
/-! SUPPORT. One lemma per shared operation that says once everything it can do, and the inversion of one step. -/

namespace Sys2Proof.Machine

/-! ### The pipeline: one equation per outcome of 60_exceptions.md R92. -/

theorem parse_of_bad_length {n : BitVec 4} {chars : Chars} (h : lengthOk n = false) :
    parse n chars = ⟨.errLength, 0#32⟩ := by
  simp [parse, h]

theorem parse_of_bad_digit {n : BitVec 4} {chars : Chars} (h : lengthOk n = true) (hd : digitsOk n chars = false) :
    parse n chars = ⟨.errDigit, 0#32⟩ := by
  simp [parse, h, hd]

theorem parse_of_digits {n : BitVec 4} {chars : Chars} (h : lengthOk n = true) (hd : digitsOk n chars = true) :
    parse n chars = ⟨.errNone, accumulate n chars⟩ := by
  simp [parse, h, hd]

theorem encodeRequest_of_bad_length {n : BitVec 4} {chars : Chars} (h : lengthOk n = false) :
    encodeRequest n chars = failure .errLength 0#32 := by
  simp [encodeRequest, parse_of_bad_length h]

theorem encodeRequest_of_bad_digit {n : BitVec 4} {chars : Chars} (h : lengthOk n = true)
    (hd : digitsOk n chars = false) : encodeRequest n chars = failure .errDigit 0#32 := by
  simp [encodeRequest, parse_of_bad_digit h hd]

theorem encodeRequest_of_illegal {n : BitVec 4} {chars : Chars} (h : lengthOk n = true) (hd : digitsOk n chars = true)
    (hc : classify (accumulate n chars) = .invalid) :
    encodeRequest n chars = failure .errCodepoint (accumulate n chars) := by
  simp [encodeRequest, parse_of_digits h hd, hc]

theorem encodeRequest_of_legal {n : BitVec 4} {chars : Chars} (h : lengthOk n = true) (hd : digitsOk n chars = true)
    (hc : classify (accumulate n chars) ≠ .invalid) :
    encodeRequest n chars =
      success (accumulate n chars) (classify (accumulate n chars))
        (pack (accumulate n chars) (planeCode (classify (accumulate n chars)))) := by
  simp [encodeRequest, parse_of_digits h hd, hc]

/-! ### The packer: one equation per plane. -/

theorem pack_ascii (cp : CodePoint) : pack cp (planeCode .ascii) = packAscii cp := rfl
theorem pack_latin (cp : CodePoint) : pack cp (planeCode .latin) = packLatin cp := rfl
theorem pack_multilingual (cp : CodePoint) : pack cp (planeCode .multilingual) = packMultilingual cp := rfl
theorem pack_extended (cp : CodePoint) : pack cp (planeCode .extended) = packExtended cp := rfl

/-! ### The edges: everything each can do. -/

theorem requestEdge_cases {n : BitVec 4} {chars : Chars} {s t : State} (h : requestEdge n chars s = .next t) :
    t.regs = Regs.ofResult (encodeRequest n chars) ∧ t.lanes = hexLanes chars ∧ t.inputs = s.inputs := by
  cases h; exact ⟨rfl, rfl, rfl⟩

theorem resetEdge_cases {chars : Chars} {s t : State} (h : resetEdge chars s = .next t) :
    t.regs = Regs.reset ∧ t.lanes = hexLanes chars ∧ t.inputs = s.inputs := by
  cases h; exact ⟨rfl, rfl, rfl⟩

theorem idleEdge_cases {chars : Chars} {s t : State} (h : idleEdge chars s = .next t) :
    t.regs = { s.regs with outValid := false } ∧ t.lanes = hexLanes chars ∧ t.inputs = s.inputs := by
  cases h; exact ⟨rfl, rfl, rfl⟩

theorem laneSettles_cases {i : LaneNo} {h : HexOut} {s t : State} (e : laneSettles i h s = .next t) :
    t.regs = s.regs ∧ t.lanes = s.lanes.set i h ∧ t.inputs = s.inputs := by
  cases e; exact ⟨rfl, rfl, rfl⟩

/-! ### Rows and edges. -/

/-- A request's row runs the request edge of its own length. -/
theorem exec_decodeRequest (n : BitVec 4) (chars : Chars) (s : State) :
    exec (decodeRequest n chars) s = requestEdge n chars s := by
  obtain ⟨k, rfl⟩ : ∃ k : Fin 16, n = BitVec.ofFin k := ⟨n.toFin, rfl⟩
  fin_cases k <;> rfl

/-- A step with nothing to come. -/
theorem step_nil {s : State} (h : s.inputs = []) : step s = clockStopped s := by simp [step, h]

/-- A step takes the first event. -/
theorem step_cons {s : State} {e : Event} {rest : List Event} (h : s.inputs = e :: rest) :
    step s = runEvent e { s with inputs := rest } := by simp [step, h]

/-- Everything an event can do. -/
theorem runEvent_cases (e : Event) (s : State) :
    (∃ i, decode e = .instr i ∧ runEvent e s = exec i s) ∨
    (∃ chars, decode e = .reset chars ∧ runEvent e s = resetEdge chars s) ∨
    (∃ chars, decode e = .idle chars ∧ runEvent e s = idleEdge chars s) ∨
    (decode e = .unknownInput ∧ runEvent e s = .refused .unknownInput) := by
  unfold runEvent
  cases h : decode e with
  | instr i => exact .inl ⟨i, rfl, rfl⟩
  | reset c => exact .inr (.inl ⟨c, rfl, rfl⟩)
  | idle c => exact .inr (.inr (.inl ⟨c, rfl, rfl⟩))
  | unknownInput => exact .inr (.inr (.inr ⟨rfl, rfl⟩))

end Sys2Proof.Machine
end

