-- ==== Sys2Proof/Laws/PerInstr.lean ====
section
/-! SUPPORT. Facts stated of every instruction, one lemma per constructor. -/

namespace Sys2Proof.Laws.EncodesToInstr

/-- Whatever its operands, an instruction's encoding is an event that the decoder reads as some instruction: never a reset
edge, an idle edge or a rejected one. -/
def Statement (i : Instr) : Prop := ∃ j, decode (encode i) = .instr j

theorem len0 (chars : Chars) : Statement (.len0 chars) := ⟨_, decode_requestEvent _ chars⟩
theorem lenOdd (n : BitVec 4) (chars : Chars) : Statement (.lenOdd n chars) := ⟨_, decode_requestEvent n chars⟩
theorem encode2 (chars : Chars) : Statement (.encode2 chars) := ⟨_, decode_requestEvent _ chars⟩
theorem encode4 (chars : Chars) : Statement (.encode4 chars) := ⟨_, decode_requestEvent _ chars⟩
theorem encode6 (chars : Chars) : Statement (.encode6 chars) := ⟨_, decode_requestEvent _ chars⟩
theorem encode8 (chars : Chars) : Statement (.encode8 chars) := ⟨_, decode_requestEvent _ chars⟩
theorem lenLong10 (chars : Chars) : Statement (.lenLong10 chars) := ⟨_, decode_requestEvent _ chars⟩
theorem lenLong12 (chars : Chars) : Statement (.lenLong12 chars) := ⟨_, decode_requestEvent _ chars⟩
theorem lenLong14 (chars : Chars) : Statement (.lenLong14 chars) := ⟨_, decode_requestEvent _ chars⟩
theorem hex0 (i : LaneNo) : Statement (.hex0 i) := ⟨_, rfl⟩
theorem hex1 (i : LaneNo) : Statement (.hex1 i) := ⟨_, rfl⟩
theorem hex2 (i : LaneNo) : Statement (.hex2 i) := ⟨_, rfl⟩
theorem hex3 (i : LaneNo) : Statement (.hex3 i) := ⟨_, rfl⟩
theorem hex4 (i : LaneNo) : Statement (.hex4 i) := ⟨_, rfl⟩
theorem hex5 (i : LaneNo) : Statement (.hex5 i) := ⟨_, rfl⟩
theorem hex6 (i : LaneNo) : Statement (.hex6 i) := ⟨_, rfl⟩
theorem hex7 (i : LaneNo) : Statement (.hex7 i) := ⟨_, rfl⟩
theorem hex8 (i : LaneNo) : Statement (.hex8 i) := ⟨_, rfl⟩
theorem hex9 (i : LaneNo) : Statement (.hex9 i) := ⟨_, rfl⟩
theorem hexA (i : LaneNo) : Statement (.hexA i) := ⟨_, rfl⟩
theorem hexB (i : LaneNo) : Statement (.hexB i) := ⟨_, rfl⟩
theorem hexC (i : LaneNo) : Statement (.hexC i) := ⟨_, rfl⟩
theorem hexD (i : LaneNo) : Statement (.hexD i) := ⟨_, rfl⟩
theorem hexE (i : LaneNo) : Statement (.hexE i) := ⟨_, rfl⟩
theorem hexF (i : LaneNo) : Statement (.hexF i) := ⟨_, rfl⟩
theorem hexALc (i : LaneNo) : Statement (.hexALc i) := ⟨_, rfl⟩
theorem hexBLc (i : LaneNo) : Statement (.hexBLc i) := ⟨_, rfl⟩
theorem hexCLc (i : LaneNo) : Statement (.hexCLc i) := ⟨_, rfl⟩
theorem hexDLc (i : LaneNo) : Statement (.hexDLc i) := ⟨_, rfl⟩
theorem hexELc (i : LaneNo) : Statement (.hexELc i) := ⟨_, rfl⟩
theorem hexFLc (i : LaneNo) : Statement (.hexFLc i) := ⟨_, rfl⟩
theorem charInvalid (i : LaneNo) (code : Byte) : Statement (.charInvalid i code) := ⟨_, rfl⟩

end Sys2Proof.Laws.EncodesToInstr
end

