-- ==== Sys2Proof/Laws/Run.lean ====
section
/-! SUPPORT. A run of several steps, one step at a time. -/

namespace Sys2Proof.Machine

theorem run_zero (s : State) : core.run 0 s = .next s := rfl

/-- A run whose first step answers a next state goes on from that state. -/
theorem run_succ_of_next {k : Nat} {s t : State} (h : step s = .next t) : core.run (k + 1) s = core.run k t := by
  simp [Host.Core.run, show core.step s = .next t from h]

/-- Two states that step alike run alike. -/
theorem run_succ_congr {k : Nat} {s s' : State} (h : step s = step s') : core.run (k + 1) s = core.run (k + 1) s' := by
  simp [Host.Core.run, show core.step s = core.step s' from h]

/-- A run of `a + b` steps is `b` steps from where `a` steps lead. -/
theorem run_add {a b : Nat} : ∀ {s t : State}, core.run a s = .next t → core.run (a + b) s = core.run b t := by
  induction a with
  | zero =>
    intro s t h
    cases h
    rw [Nat.zero_add]
  | succ a ih =>
    intro s t h
    rw [Nat.add_right_comm]
    cases hs : step s with
    | next u =>
      rw [run_succ_of_next hs] at h ⊢
      exact ih h
    | fault r => exact nomatch r
    | refused r =>
      simp [Host.Core.run, show core.step s = .refused r from hs] at h

end Sys2Proof.Machine
end

