-- ==== Sys2Proof/Tests/Slice0.lean ====
section
/-! SUPPORT. The model's own tests. Expected values come from the spec: words from spec/opcode_table.json and 30_encoding.md
R43 and R44, results from the rows of spec/95_test_vectors.md that each test names. A theorem witness_<Obligation> shows a
concrete input that meets all of that obligation's hypotheses. -/

namespace Sys2Proof.Machine

/-- The registers after an instruction runs in the reset state. -/
def regsAfter (i : Instr) : Option Regs :=
  match exec i State.reset with
  | .next t => some t.regs
  | .fault _ => none
  | .refused _ => none

/-- What lane 5's decoder puts out after an instruction runs in the reset state. -/
def lane5After (i : Instr) : Option HexOut :=
  match exec i State.reset with
  | .next t => some t.lanes[5]
  | .fault _ => none
  | .refused _ => none

/-- The registers after one step. -/
def regsAfterStep (s : State) : Option Regs :=
  match step s with
  | .next t => some t.regs
  | .fault _ => none
  | .refused _ => none

/-! ### WellFormed refuses an ill-formed term, one per check. -/

theorem test_even_length_is_no_lenOdd : WellFormed (.lenOdd 4 0) = false := by decide
theorem test_digit_is_no_charInvalid :
    WellFormed (.charInvalid 0 0x30) = false ∧ WellFormed (.charInvalid 0 0x46) = false ∧
    WellFormed (.charInvalid 0 0x61) = false := by decide

/-! ### Decoding: every row of spec/opcode_table.json by its own pattern. -/

theorem test_decode_request_rows :
    decodeTableWord 8 0b0000 = some (.len0 0) ∧
    decodeTableWord 8 0b0010 = some (.encode2 0) ∧
    decodeTableWord 8 0b0100 = some (.encode4 0) ∧
    decodeTableWord 8 0b0110 = some (.encode6 0) ∧
    decodeTableWord 8 0b1000 = some (.encode8 0) ∧
    decodeTableWord 8 0b1010 = some (.lenLong10 0) ∧
    decodeTableWord 8 0b1100 = some (.lenLong12 0) ∧
    decodeTableWord 8 0b1110 = some (.lenLong14 0) ∧
    decodeTableWord 8 0b0001 = some (.lenOdd 0b0001 0) ∧
    decodeTableWord 8 0b0111 = some (.lenOdd 0b0111 0) ∧
    decodeTableWord 8 0b1001 = some (.lenOdd 0b1001 0) ∧
    decodeTableWord 8 0b1111 = some (.lenOdd 0b1111 0) := by decide

theorem test_decode_char_rows :
    decode (.lane 3 0b00110000) = .instr (.hex0 3) ∧
    decode (.lane 3 0b00110001) = .instr (.hex1 3) ∧
    decode (.lane 3 0b00110010) = .instr (.hex2 3) ∧
    decode (.lane 3 0b00110011) = .instr (.hex3 3) ∧
    decode (.lane 3 0b00110100) = .instr (.hex4 3) ∧
    decode (.lane 3 0b00110101) = .instr (.hex5 3) ∧
    decode (.lane 3 0b00110110) = .instr (.hex6 3) ∧
    decode (.lane 3 0b00110111) = .instr (.hex7 3) ∧
    decode (.lane 3 0b00111000) = .instr (.hex8 3) ∧
    decode (.lane 3 0b00111001) = .instr (.hex9 3) ∧
    decode (.lane 3 0b01000001) = .instr (.hexA 3) ∧
    decode (.lane 3 0b01000010) = .instr (.hexB 3) ∧
    decode (.lane 3 0b01000011) = .instr (.hexC 3) ∧
    decode (.lane 3 0b01000100) = .instr (.hexD 3) ∧
    decode (.lane 3 0b01000101) = .instr (.hexE 3) ∧
    decode (.lane 3 0b01000110) = .instr (.hexF 3) ∧
    decode (.lane 3 0b01100001) = .instr (.hexALc 3) ∧
    decode (.lane 3 0b01100010) = .instr (.hexBLc 3) ∧
    decode (.lane 3 0b01100011) = .instr (.hexCLc 3) ∧
    decode (.lane 3 0b01100100) = .instr (.hexDLc 3) ∧
    decode (.lane 3 0b01100101) = .instr (.hexELc 3) ∧
    decode (.lane 3 0b01100110) = .instr (.hexFLc 3) := by decide

theorem test_decode_default_row :
    [0x00, 0x20, 0x2F, 0x3A, 0x40, 0x47, 0x58, 0x60, 0x67, 0x78, 0x80, 0xB0, 0xC1, 0xE1, 0xFF].all
      (fun c => decode (.lane 7 c) == .instr (.charInvalid 7 c)) = true := by decide

/-- A longer number carries the lanes after the length: `ENCODE "0080"` (20_memory.md R32). -/
theorem test_decode_with_lanes : decodeTableWord 72 0x000000003038303004 = some (.encode4 0x0000000030383030) := by decide

theorem test_decode_refuses_long_word : decodeTableWord 8 0x100 = none ∧ decodeTableWord 72 0x14 = none := by decide

/-! ### The first step after reset runs the word placed there. -/

theorem test_fetch_encode2 :
    regsAfterStep (State.reset.withFetchWord 8 0x2) = some ⟨true, false, 2, 0, 0, 0, 0⟩ := by decide

theorem test_fetch_hexC : step (State.reset.withFetchWord 8 0x43) = exec (.hexC 0) State.reset := by rfl

/-! ### Character rows (95_test_vectors.md 2.1). -/

theorem test_digit_rows :
    lane5After (.hex0 5) = some ⟨true, 0x0⟩ ∧
    lane5After (.hex1 5) = some ⟨true, 0x1⟩ ∧
    lane5After (.hex2 5) = some ⟨true, 0x2⟩ ∧
    lane5After (.hex3 5) = some ⟨true, 0x3⟩ ∧
    lane5After (.hex4 5) = some ⟨true, 0x4⟩ ∧
    lane5After (.hex5 5) = some ⟨true, 0x5⟩ ∧
    lane5After (.hex6 5) = some ⟨true, 0x6⟩ ∧
    lane5After (.hex7 5) = some ⟨true, 0x7⟩ ∧
    lane5After (.hex8 5) = some ⟨true, 0x8⟩ ∧
    lane5After (.hex9 5) = some ⟨true, 0x9⟩ ∧
    lane5After (.hexA 5) = some ⟨true, 0xA⟩ ∧
    lane5After (.hexB 5) = some ⟨true, 0xB⟩ ∧
    lane5After (.hexC 5) = some ⟨true, 0xC⟩ ∧
    lane5After (.hexD 5) = some ⟨true, 0xD⟩ ∧
    lane5After (.hexE 5) = some ⟨true, 0xE⟩ ∧
    lane5After (.hexF 5) = some ⟨true, 0xF⟩ ∧
    lane5After (.hexALc 5) = some ⟨true, 0xA⟩ ∧
    lane5After (.hexBLc 5) = some ⟨true, 0xB⟩ ∧
    lane5After (.hexCLc 5) = some ⟨true, 0xC⟩ ∧
    lane5After (.hexDLc 5) = some ⟨true, 0xD⟩ ∧
    lane5After (.hexELc 5) = some ⟨true, 0xE⟩ ∧
    lane5After (.hexFLc 5) = some ⟨true, 0xF⟩ ∧
    lane5After (.charInvalid 5 0x47) = some ⟨false, 0⟩ := by decide

theorem test_char_row_keeps_registers : regsAfter (.hexF 5) = some Regs.reset := by decide

/-! ### Request rows (95_test_vectors.md 2.5). -/

theorem test_encode2_E14 :
    regsAfter (.encode2 0x0000000000004637#64) = some ⟨true, true, 0, 1, 0x0000007F, 0x0000007F, 1⟩ := by decide

theorem test_encode2_unused_lanes_E42 :
    regsAfter (.encode2 0x4747474747473134#64) = some ⟨true, true, 0, 1, 0x00000041, 0x00000041, 1⟩ := by decide

theorem test_encode4_E3 :
    regsAfter (.encode4 0x0000000030383030#64) = some ⟨true, true, 0, 2, 0x000080C2, 0x00000080, 2⟩ := by decide

theorem test_encode4_surrogate_E5 :
    regsAfter (.encode4 0x0000000030303844#64) = some ⟨true, false, 3, 0, 0x00000000, 0x0000D800, 0⟩ := by decide

theorem test_encode6_E24 :
    regsAfter (.encode6 0x0000303036463130#64) = some ⟨true, true, 0, 4, 0x80989FF0, 0x0001F600, 4⟩ := by decide

theorem test_encode6_lower_case_E27 :
    regsAfter (.encode6 0x0000666637643030#64) = some ⟨true, true, 0, 3, 0x00BF9FED, 0x0000D7FF, 3⟩ := by decide

theorem test_encode8_E25 :
    regsAfter (.encode8 0x4646464630313030#64) = some ⟨true, true, 0, 4, 0xBFBF8FF4, 0x0010FFFF, 4⟩ := by decide

theorem test_encode8_above_range_E36 :
    regsAfter (.encode8 0x4646464646464646#64) = some ⟨true, false, 3, 0, 0x00000000, 0xFFFFFFFF, 0⟩ := by decide

theorem test_len0_E10 :
    regsAfter (.len0 0) = some ⟨true, false, 1, 0, 0, 0, 0⟩ := by decide

theorem test_lenOdd_before_digits_E40 :
    regsAfter (.lenOdd 3 0x0000000000474747#64) = some ⟨true, false, 1, 0, 0, 0, 0⟩ := by decide

theorem test_lenLong10_E31 :
    regsAfter (.lenLong10 0x3837363534333231#64) = some ⟨true, false, 1, 0, 0, 0, 0⟩ := by decide

theorem test_lenLong12_E32 :
    regsAfter (.lenLong12 0x3837363534333231#64) = some ⟨true, false, 1, 0, 0, 0, 0⟩ := by decide

theorem test_lenLong14_E33 :
    regsAfter (.lenLong14 0x3837363534333231#64) = some ⟨true, false, 1, 0, 0, 0, 0⟩ := by decide

theorem test_bad_digit_E39 : regsAfter (.encode4 0x0000000030304730#64) = some ⟨true, false, 2, 0, 0, 0, 0⟩ := by decide

/-! ### The register stage (95_test_vectors.md 2.6). -/

/-- A machine that holds every bit set, with one event to come. -/
def full (e : Event) : State :=
  { regs := ⟨true, true, 3, 7, 0xFFFFFFFF, 0xFFFFFFFF, 7⟩, lanes := quietLanes, inputs := [e] }

/-- An edge with known inputs. -/
def sample (rst inValid : BitVec 1) (inLen : BitVec 4) (inChars : Chars) : PortSample :=
  ⟨.known rst, .known inValid, .known inLen, .known inChars⟩

/-- Vector T2: the request is dropped. -/
theorem test_reset_beats_request_T2 :
    regsAfterStep (full (.edge (sample 1 1 4 0x0000000030383030#64))) = some ⟨false, false, 0, 0, 0, 0, 0⟩ := by decide

/-- Vector T3: only `out_valid` changes. -/
theorem test_idle_holds_T3 :
    regsAfterStep { full (.edge (sample 0 0 9 0x1234)) with regs := ⟨true, true, 0, 2, 0x000080C2, 0x80, 2⟩ } =
      some ⟨false, true, 0, 2, 0x000080C2, 0x80, 2⟩ := by decide

/-- Vector T6: a request writes all seven registers, whatever they held. -/
theorem test_request_from_any_registers_T6 :
    regsAfterStep (full (requestEvent 4 0x0000000031343030#64)) = some ⟨true, true, 0, 1, 0x41, 0x41, 1⟩ := by decide

theorem test_unknown_bit_is_refused :
    step (full (.edge { sample 0 1 4 0 with inChars := ⟨0, 1⟩ })) = .refused .unknownInput := by rfl

/-- Row E20 in the notation of 30_encoding.md R53. -/
theorem test_text_line_E20 :
    (Line.encode ['2', '0', 'A', 'C']).event = some (requestEvent 4 0x0000000043413032) := by decide

/-- Row E13: nine characters, of which the first eight are on the bus. -/
theorem test_text_line_E13 :
    (Line.encode ['1', '2', '3', '4', '5', '6', '7', '8', '9']).event = some (requestEvent 9 0x3837363534333231) := by
  decide

/-! ### A witness for each obligation that has hypotheses. -/

theorem witness_DecodeEncodeIsIdentity :
    WellFormed (.lenOdd 15 0) = true ∧ WellFormed (.charInvalid 2 0x47) = true ∧ WellFormed (.hexA 0) = true := by decide

theorem witness_EncodeDecodeIsIdentity :
    decode (requestEvent 4 7) = .instr (.encode4 7) ∧ decode (.lane 7 0x66) = .instr (.hexFLc 7) := by decide

theorem witness_TextLinePresentsItsString :
    (['0', '0', '8', '0'].length ≤ 15 ∧ ∀ c ∈ ['0', '0', '8', '0'], c.toNat < 128) ∧
    ((List.replicate 15 'F').length ≤ 15 ∧ ∀ c ∈ List.replicate 15 'F', c.toNat < 128) := by
  simp

theorem witness_InvalidCharRowGivesZero :
    isHexCode 0x2F = false ∧ isHexCode 0x3A = false ∧ isHexCode 0x40 = false ∧ isHexCode 0x47 = false ∧
    isHexCode 0x60 = false ∧ isHexCode 0x67 = false ∧ 0x80 ≤ (0x80#8).toNat := by decide

theorem witness_CharRowsChangeOneLaneOnly :
    encode (.hex5 3) = .lane 3 0x35 ∧ encode (.charInvalid 0 0xFF) = .lane 0 0xFF ∧ (0 : LaneNo) ≠ 3 := by decide

/-- "aBc0" and "AbC0": the letters change case, the digit is kept. -/
theorem witness_CaseDoesNotMatter :
    EncodeRow 4 0x0000000030634261#64 (.encode4 0x0000000030634261#64) ∧ EncodeRow 4 0x0000000030436241#64 (.encode4 0x0000000030436241#64) ∧
    ∀ j, j < 4 → lane 0x0000000030436241#64 j = lane 0x0000000030634261#64 j ∨
      (((0x41 ≤ (lane 0x0000000030634261#64 j).toNat ∧ (lane 0x0000000030634261#64 j).toNat ≤ 0x46) ∨
          (0x61 ≤ (lane 0x0000000030634261#64 j).toNat ∧ (lane 0x0000000030634261#64 j).toNat ≤ 0x66)) ∧
        lane 0x0000000030436241#64 j = lane 0x0000000030634261#64 j ^^^ 0x20#8) := by decide

theorem witness_AccumulatorFormsAgree : (2#4).toNat = 2 ∧ (4#4).toNat = 4 ∧ (6#4).toNat = 6 ∧ (8#4).toNat = 8 := by decide

theorem witness_DigitsLandInTheirNibbles : (8#4).toNat = 8 ∧ 0 < (8#4).toNat ∧ 7 < (8#4).toNat := by decide

theorem witness_ParsedValueIsBigEndianSum :
    EncodeRow 2 0x0000000000004637#64 (.encode2 0x0000000000004637#64) ∧ AllHex 2 0x0000000000004637#64 ∧
    EncodeRow 8 0x4646464646464646#64 (.encode8 0x4646464646464646#64) ∧ AllHex 8 0x4646464646464646#64 := by decide

theorem witness_LeadingZerosDoNotChangeTheResult :
    EncodeRow 2 0x3945#64 (.encode2 0x3945#64) ∧
    EncodeRow 4 (0x3945#64 <<< 16 ||| 0x3030#64) (.encode4 0x39453030#64) ∧
    EncodeRow 6 0x394530303030#64 (.encode6 0x394530303030#64) ∧
    EncodeRow 8 (0x394530303030#64 <<< 16 ||| 0x3030#64) (.encode8 0x3945303030303030#64) := by decide

theorem witness_EverySpellingGivesTheSameResult :
    EncodeRow 2 0x0000000000003965#64 (.encode2 0x0000000000003965#64) ∧ EncodeRow 8 0x3945303030303030#64 (.encode8 0x3945303030303030#64) ∧ AllHex 2 0x0000000000003965#64 ∧ AllHex 8 0x3945303030303030#64 ∧
    stringValue 2 0x0000000000003965#64 = stringValue 8 0x3945303030303030#64 := by decide

/-- Every class of request row. The witness of RequestSucceedsExactlyWhenLegal, FirstFailureCauseIsReported,
FailureSignalIsUniform, RequestRowsFrame, ResultDependsOnRequestOnly, UnusedByteLanesAreZero, LeadByteShowsTheLength and
OnlyShortestFormsAreProduced. -/
theorem witness_RequestRows :
    RequestRow 0 0 (.len0 0) ∧ RequestRow 1 0 (.lenOdd 1 0) ∧ RequestRow 15 0 (.lenOdd 15 0) ∧
    RequestRow 2 0 (.encode2 0) ∧ RequestRow 4 0 (.encode4 0) ∧ RequestRow 6 0 (.encode6 0) ∧
    RequestRow 8 0 (.encode8 0) ∧ RequestRow 10 0 (.lenLong10 0) ∧ RequestRow 12 0 (.lenLong12 0) ∧
    RequestRow 14 0 (.lenLong14 0) := by
  refine ⟨.inr (.inl ⟨rfl, rfl⟩), .inr (.inr (.inl ⟨1, rfl, rfl, rfl⟩)), .inr (.inr (.inl ⟨15, rfl, rfl, rfl⟩)), ?_⟩
  exact ⟨.inl (.inl ⟨rfl, rfl⟩), .inl (.inr (.inl ⟨rfl, rfl⟩)), .inl (.inr (.inr (.inl ⟨rfl, rfl⟩))),
    .inl (.inr (.inr (.inr ⟨rfl, rfl⟩))), .inr (.inr (.inr (.inl ⟨rfl, rfl⟩))),
    .inr (.inr (.inr (.inr (.inl ⟨rfl, rfl⟩)))), .inr (.inr (.inr (.inr (.inr ⟨rfl, rfl⟩))))⟩

/-- The inner hypotheses: four-byte leads F0 and F4, and three-byte leads E0 and ED, on success. -/
theorem witness_OnlyShortestFormsAreProduced :
    (regsAfter (.encode6 0x0000303030303130#64)).map (fun r => (r.outOk, r.outNbytes, blane r.outBytes 1)) = some (true, 4, 0xF0) ∧
    (regsAfter (.encode6 0x0000464646463031#64)).map (fun r => (r.outOk, r.outNbytes, blane r.outBytes 1)) = some (true, 4, 0xF4) ∧
    (regsAfter (.encode4 0x0000000030303830#64)).map (fun r => (r.outOk, r.outNbytes, blane r.outBytes 1)) = some (true, 3, 0xE0) ∧
    (regsAfter (.encode4 0x0000000046463744#64)).map (fun r => (r.outOk, r.outNbytes, blane r.outBytes 1)) = some (true, 3, 0xED) := by decide

/-- The inner hypothesis: `out_cp` above 0x00FFFFFF, from "FFFFFFFF". -/
theorem witness_OnlyEightDigitsExceedTwentyFourBits :
    (regsAfter (.encode8 0x4646464646464646#64)).map (fun r => decide (0x00FFFFFF < r.outCp.toNat)) = some true := by decide

theorem witness_InvalidPlanePacksNoBytes : (0#3).toNat = 0 ∧ 5 ≤ (5#3).toNat ∧ 5 ≤ (7#3).toNat := by decide

theorem witness_AsciiRequestGivesOneByte :
    (EncodeRow 2 0x0000000000003030#64 (.encode2 0x0000000000003030#64) ∧ AllHex 2 0x0000000000003030#64 ∧ stringValue 2 0x0000000000003030#64 ≤ 0x7F) ∧
    (EncodeRow 8 0x4637303030303030#64 (.encode8 0x4637303030303030#64) ∧ AllHex 8 0x4637303030303030#64 ∧ stringValue 8 0x4637303030303030#64 ≤ 0x7F) := by decide

theorem witness_LatinRequestGivesTwoBytes :
    (EncodeRow 2 0x0000000000003038#64 (.encode2 0x0000000000003038#64) ∧ AllHex 2 0x0000000000003038#64 ∧ 0x80 ≤ stringValue 2 0x0000000000003038#64 ∧ stringValue 2 0x0000000000003038#64 ≤ 0x7FF) ∧
    (EncodeRow 4 0x0000000046463730#64 (.encode4 0x0000000046463730#64) ∧ AllHex 4 0x0000000046463730#64 ∧ 0x80 ≤ stringValue 4 0x0000000046463730#64 ∧ stringValue 4 0x0000000046463730#64 ≤ 0x7FF) := by decide

theorem witness_MultilingualRequestGivesThreeBytes :
    (EncodeRow 4 0x0000000030303830#64 (.encode4 0x0000000030303830#64) ∧ AllHex 4 0x0000000030303830#64 ∧ 0x800 ≤ stringValue 4 0x0000000030303830#64 ∧ stringValue 4 0x0000000030303830#64 ≤ 0xFFFF ∧ ¬(0xD800 ≤ stringValue 4 0x0000000030303830#64 ∧ stringValue 4 0x0000000030303830#64 ≤ 0xDFFF)) ∧
    (EncodeRow 4 0x0000000066663764#64 (.encode4 0x0000000066663764#64) ∧ AllHex 4 0x0000000066663764#64 ∧ 0x800 ≤ stringValue 4 0x0000000066663764#64 ∧ stringValue 4 0x0000000066663764#64 ≤ 0xFFFF ∧ ¬(0xD800 ≤ stringValue 4 0x0000000066663764#64 ∧ stringValue 4 0x0000000066663764#64 ≤ 0xDFFF)) ∧
    (EncodeRow 6 0x0000303030453030#64 (.encode6 0x0000303030453030#64) ∧ AllHex 6 0x0000303030453030#64 ∧ 0x800 ≤ stringValue 6 0x0000303030453030#64 ∧ stringValue 6 0x0000303030453030#64 ≤ 0xFFFF ∧ ¬(0xD800 ≤ stringValue 6 0x0000303030453030#64 ∧ stringValue 6 0x0000303030453030#64 ≤ 0xDFFF)) ∧
    (EncodeRow 4 0x0000000046464646#64 (.encode4 0x0000000046464646#64) ∧ AllHex 4 0x0000000046464646#64 ∧ 0x800 ≤ stringValue 4 0x0000000046464646#64 ∧ stringValue 4 0x0000000046464646#64 ≤ 0xFFFF ∧ ¬(0xD800 ≤ stringValue 4 0x0000000046464646#64 ∧ stringValue 4 0x0000000046464646#64 ≤ 0xDFFF)) := by decide

theorem witness_ExtendedRequestGivesFourBytes :
    (EncodeRow 6 0x0000303030303130#64 (.encode6 0x0000303030303130#64) ∧ AllHex 6 0x0000303030303130#64 ∧ 0x10000 ≤ stringValue 6 0x0000303030303130#64 ∧ stringValue 6 0x0000303030303130#64 ≤ 0x10FFFF) ∧
    (EncodeRow 8 0x4646464630313030#64 (.encode8 0x4646464630313030#64) ∧ AllHex 8 0x4646464630313030#64 ∧ 0x10000 ≤ stringValue 8 0x4646464630313030#64 ∧ stringValue 8 0x4646464630313030#64 ≤ 0x10FFFF) := by decide

theorem witness_RejectedLengthRecordsLengthFailure :
    LengthRow 0 5 (.len0 5) ∧ LengthRow 1 5 (.lenOdd 1 5) ∧ LengthRow 15 5 (.lenOdd 15 5) ∧ LengthRow 10 5 (.lenLong10 5) ∧
    LengthRow 12 5 (.lenLong12 5) ∧ LengthRow 14 5 (.lenLong14 5) := by
  refine ⟨.inl ⟨rfl, rfl⟩, .inr (.inl ⟨1, rfl, rfl, rfl⟩), .inr (.inl ⟨15, rfl, rfl, rfl⟩), ?_⟩
  exact ⟨.inr (.inr (.inl ⟨rfl, rfl⟩)), .inr (.inr (.inr (.inl ⟨rfl, rfl⟩))), .inr (.inr (.inr (.inr ⟨rfl, rfl⟩)))⟩

theorem witness_BadDigitRecordsDigitFailure :
    (EncodeRow 2 0x0000000000003047#64 (.encode2 0x0000000000003047#64) ∧ 0 < 2 ∧ isHexCode (lane 0x0000000000003047#64 0) = false) ∧
    (EncodeRow 2 0x0000000000004730#64 (.encode2 0x0000000000004730#64) ∧ 1 < 2 ∧ isHexCode (lane 0x0000000000004730#64 1) = false) ∧
    (EncodeRow 8 0x2030303030303030#64 (.encode8 0x2030303030303030#64) ∧ 7 < 8 ∧ isHexCode (lane 0x2030303030303030#64 7) = false) := by decide

theorem witness_IllegalValueRecordsCodePointFailure :
    (EncodeRow 4 0x0000000030303844#64 (.encode4 0x0000000030303844#64) ∧ AllHex 4 0x0000000030303844#64 ∧ ((0xD800 ≤ stringValue 4 0x0000000030303844#64 ∧ stringValue 4 0x0000000030303844#64 ≤ 0xDFFF) ∨ 0x10FFFF < stringValue 4 0x0000000030303844#64)) ∧
    (EncodeRow 4 0x0000000046464644#64 (.encode4 0x0000000046464644#64) ∧ AllHex 4 0x0000000046464644#64 ∧ ((0xD800 ≤ stringValue 4 0x0000000046464644#64 ∧ stringValue 4 0x0000000046464644#64 ≤ 0xDFFF) ∨ 0x10FFFF < stringValue 4 0x0000000046464644#64)) ∧
    (EncodeRow 6 0x0000303030303131#64 (.encode6 0x0000303030303131#64) ∧ AllHex 6 0x0000303030303131#64 ∧ ((0xD800 ≤ stringValue 6 0x0000303030303131#64 ∧ stringValue 6 0x0000303030303131#64 ≤ 0xDFFF) ∨ 0x10FFFF < stringValue 6 0x0000303030303131#64)) ∧
    (EncodeRow 8 0x4646464646464646#64 (.encode8 0x4646464646464646#64) ∧ AllHex 8 0x4646464646464646#64 ∧ ((0xD800 ≤ stringValue 8 0x4646464646464646#64 ∧ stringValue 8 0x4646464646464646#64 ≤ 0xDFFF) ∨ 0x10FFFF < stringValue 8 0x4646464646464646#64)) := by decide

/-- Both alternatives: requests that agree on the significant lanes, and a rejected length. -/
theorem witness_UnusedLanesDoNotMatter :
    (RequestRow 2 0x3231 (.encode2 0x3231) ∧ RequestRow 2 0x4747474747473231 (.encode2 0x4747474747473231) ∧
      ∀ j, j < min 2 8 → lane 0x4747474747473231 j = lane 0x3231 j) ∧
    (RequestRow 10 0 (.lenLong10 0) ∧ RequestRow 10 7 (.lenLong10 7) ∧ LengthRow 10 0 (.lenLong10 0)) :=
  ⟨⟨.inl (by decide), .inl (by decide), by decide⟩,
    ⟨.inr (.inr (.inr (.inl ⟨rfl, rfl⟩))), .inr (.inr (.inr (.inl ⟨rfl, rfl⟩))), .inr (.inr (.inl ⟨rfl, rfl⟩))⟩⟩

theorem witness_EncodedBytesDecodeToTheCodePoint :
    (EncodeRow 4 (spell 4 0xA5 0x20AC 0xFF00000000000000) (.encode4 (spell 4 0xA5 0x20AC 0xFF00000000000000)) ∧
      (0x20AC#32).toNat < 16 ^ 4 ∧ LegalValue (0x20AC#32).toNat) ∧
    (EncodeRow 6 (spell 6 0 0x10FFFF 0) (.encode6 (spell 6 0 0x10FFFF 0)) ∧ (0x10FFFF#32).toNat < 16 ^ 6 ∧
      LegalValue (0x10FFFF#32).toNat) := by decide

/-- The spelling is the string the code point is written as: "20aC" and "10ffff". -/
theorem test_spell :
    spell 4 0x08 0x20AC 0 = 0x0000000043613032#64 ∧ spell 6 0 0x10FFFF 0 = 0x0000666666663031#64 := by decide

/-- The reference decoder reads the source's own 4-byte vectors (95_test_vectors.md S8, S9), and refuses an overlong form, a
surrogate and a value above 0x10FFFF. -/
theorem test_reference_decoder :
    utf8Decode [0xF0, 0x90, 0x80, 0x80] = some 0x10000 ∧ utf8Decode [0xF4, 0x8F, 0xBF, 0xBF] = some 0x10FFFF ∧
    utf8Decode [0xC2, 0x80] = some 0x80 ∧ utf8Decode [0xC1, 0xBF] = none ∧ utf8Decode [0xED, 0xA0, 0x80] = none ∧
    utf8Decode [0xF4, 0x90, 0x80, 0x80] = none := by decide

theorem witness_StepRunsTheDecodedInstruction :
    (full (requestEvent 4 9)).inputs = requestEvent 4 9 :: [] ∧ decode (requestEvent 4 9) = .instr (.encode4 9) ∧
    (full (.lane 2 0x41)).inputs = .lane 2 0x41 :: [] ∧ decode (.lane 2 0x41) = .instr (.hexA 2) := by decide

theorem witness_ResetEdgeClearsAndDropsTheRequest :
    (full (.edge (sample 1 1 4 9))).inputs = .edge (sample 1 1 4 9) :: [] ∧ (sample 1 1 4 9).stable = true ∧
    (sample 1 1 4 9).rst.val = 1#1 := by decide

theorem witness_ResetMayBeHeldAndIsReadyAtOnce :
    ([.edge (sample 1 0 0 0), .edge (sample 1 1 4 9)] : List Event) ≠ [] ∧
    (∀ e ∈ ([.edge (sample 1 0 0 0), .edge (sample 1 1 4 9)] : List Event), IsReset e) ∧
    ({ State.reset with inputs := [.edge (sample 1 0 0 0), .edge (sample 1 1 4 9), requestEvent 2 5] } : State).inputs =
      [.edge (sample 1 0 0 0), .edge (sample 1 1 4 9)] ++ requestEvent 2 5 :: [] := by
  refine ⟨by decide, ?_, rfl⟩
  intro e he
  simp only [List.mem_cons, List.not_mem_nil, or_false] at he
  obtain rfl | rfl := he
  · exact ⟨0, rfl⟩
  · exact ⟨9, rfl⟩

theorem witness_IdleEdgeHoldsTheData :
    (full (.edge (sample 0 0 4 9))).inputs = .edge (sample 0 0 4 9) :: [] ∧ (sample 0 0 4 9).stable = true ∧
    (sample 0 0 4 9).rst.val = 0#1 ∧ (sample 0 0 4 9).inValid.val = 0#1 := by decide

theorem witness_ResultIsHeldUntilTheNextRequest :
    (∀ e ∈ ([.edge (sample 0 0 1 2)] : List Event), IsIdle e) ∧
    ({ State.reset with inputs := [requestEvent 2 5, .edge (sample 0 0 1 2)] } : State).inputs =
      requestEvent 2 5 :: ([.edge (sample 0 0 1 2)] ++ []) := by
  refine ⟨?_, rfl⟩
  intro e he
  simp only [List.mem_singleton] at he
  exact ⟨2, he ▸ rfl⟩

/-- A reset edge, a request edge and an idle edge. -/
theorem witness_OutValidFollowsTheSampledRequest :
    ((full (.edge (sample 1 1 2 0))).inputs = .edge (sample 1 1 2 0) :: [] ∧ (sample 1 1 2 0).stable = true) ∧
    ((full (.edge (sample 0 1 2 0))).inputs = .edge (sample 0 1 2 0) :: [] ∧ (sample 0 1 2 0).stable = true) ∧
    ((full (.edge (sample 0 0 2 0))).inputs = .edge (sample 0 0 2 0) :: [] ∧ (sample 0 0 2 0).stable = true) := by decide

theorem witness_BackToBackRequestsAreAllServed :
    ({ State.reset with inputs := [requestEvent 2 5, requestEvent 4 6] } : State).inputs =
      ([(2, 5), (4, 6)] : List (BitVec 4 × Chars)).map (fun r => requestEvent r.1 r.2) ++ [] ∧
    ([(2, 5), (4, 6)] : List (BitVec 4 × Chars))[1]? = some (4, 6) := by decide

/-- One unknown bit in each of the four inputs. -/
theorem witness_UnknownInputIsRefused :
    ({ sample 0 1 4 0 with rst := ⟨0, 1⟩ } : PortSample).rst.bad ≠ 0#1 ∧
    ({ sample 0 1 4 0 with inValid := ⟨0, 1⟩ } : PortSample).inValid.bad ≠ 0#1 ∧
    ({ sample 0 1 4 0 with inLen := ⟨0, 8⟩ } : PortSample).inLen.bad ≠ 0#4 ∧
    ({ sample 0 1 4 0 with inChars := ⟨0, 1⟩ } : PortSample).inChars.bad ≠ 0#64 ∧
    (full (.edge { sample 0 1 4 0 with inChars := ⟨0, 1⟩ })).inputs =
      .edge { sample 0 1 4 0 with inChars := ⟨0, 1⟩ } :: [] := by decide

theorem witness_StoppedClockHoldsEveryRegister : State.reset.inputs = [] := rfl

theorem witness_KnownInputsNeverStopTheBlock :
    ∀ e ∈ ({ State.reset with inputs := [requestEvent 2 5, .edge (sample 1 0 0 0), .lane 0 0] } : State).inputs,
      decode e ≠ .unknownInput := by decide

/-- Two machines that differ in every register, with an idle edge before the request that makes them equal. -/
theorem witness_OneRequestOrResetForgetsAllHistory :
    (∀ x ∈ ([.edge (sample 0 0 0 0)] : List Event), decode x ≠ .unknownInput) ∧ IsRequest (requestEvent 2 5) ∧
    ({ State.reset with inputs := [.edge (sample 0 0 0 0), requestEvent 2 5] } : State).inputs =
      [.edge (sample 0 0 0 0)] ++ requestEvent 2 5 :: [] ∧
    ({ full (.lane 0 0) with inputs := [.edge (sample 0 0 0 0), requestEvent 2 5] } : State).inputs =
      ({ State.reset with inputs := [.edge (sample 0 0 0 0), requestEvent 2 5] } : State).inputs :=
  ⟨by decide, ⟨2, 5, rfl⟩, rfl, rfl⟩

/-- The reset case: the same two machines, with a reset edge in the place of the request. -/
theorem witness_OneRequestOrResetForgetsAllHistory_reset :
    (∀ x ∈ ([.edge (sample 0 0 0 0)] : List Event), decode x ≠ .unknownInput) ∧ IsReset (.edge (sample 1 1 4 9)) ∧
    ({ State.reset with inputs := [.edge (sample 0 0 0 0), .edge (sample 1 1 4 9)] } : State).inputs =
      [.edge (sample 0 0 0 0)] ++ .edge (sample 1 1 4 9) :: [] ∧
    ({ full (.lane 0 0) with inputs := [.edge (sample 0 0 0 0), .edge (sample 1 1 4 9)] } : State).inputs =
      ({ State.reset with inputs := [.edge (sample 0 0 0 0), .edge (sample 1 1 4 9)] } : State).inputs :=
  ⟨by decide, ⟨9, rfl⟩, rfl, rfl⟩

/-- A coherent success, one that idle and lane events carry on, and a step from it. -/
theorem witness_EveryStepKeepsTheRegistersCoherent :
    Coherent ⟨true, true, 0, 2, 0x000080C2, 0x80, 2⟩ ∧ Coherent ⟨true, false, 3, 0, 0, 0xD800, 0⟩ ∧
    Coherent ⟨true, false, 1, 0, 0, 0, 0⟩ ∧ Coherent ⟨true, false, 2, 0, 0, 0, 0⟩ ∧ ¬Coherent ⟨true, false, 0, 0, 0, 0, 0⟩ ∧
    regsAfterStep { full (requestEvent 2 0x3030) with regs := ⟨true, true, 0, 2, 0x000080C2, 0x80, 2⟩ } =
      some ⟨true, true, 0, 1, 0, 0, 1⟩ := by
  refine ⟨?_, ?_, ?_, ?_, ?_, ?_⟩ <;> decide

/-- The state before may hold reserved codes. -/
theorem witness_RequestOrResetMakesTheRegistersCoherent :
    (full (requestEvent 2 0x3030)).inputs = requestEvent 2 0x3030 :: [] ∧ IsRequest (requestEvent 2 0x3030) ∧
    ¬Coherent (full (requestEvent 2 0x3030)).regs :=
  ⟨rfl, ⟨2, 0x3030, rfl⟩, by decide⟩

end Sys2Proof.Machine
end

/-! ## The pipeline's result and the register stage (family 10_state.md)

The classifier and the packer in natural numbers, what a request's result can be, what a row and a step can do to the
registers, and from these the obligations O54, O31, O32, O46, O40, O43 and O53. -/

namespace Sys2Proof.Machine

/-! ### The classifier (42_classifier.md R68) -/

/-- The range of values behind each answer of the classifier. -/
theorem classify_cases (cp : CodePoint) :
    (classify cp = .ascii ∧ cp.toNat < 0x80) ∨
    (classify cp = .latin ∧ 0x80 ≤ cp.toNat ∧ cp.toNat < 0x800) ∨
    (classify cp = .multilingual ∧ 0x800 ≤ cp.toNat ∧ cp.toNat < 0x10000 ∧ ¬(0xD800 ≤ cp.toNat ∧ cp.toNat ≤ 0xDFFF)) ∨
    (classify cp = .extended ∧ 0x10000 ≤ cp.toNat ∧ cp.toNat ≤ 0x10FFFF) ∨
    (classify cp = .invalid ∧ ((0xD800 ≤ cp.toNat ∧ cp.toNat ≤ 0xDFFF) ∨ 0x10FFFF < cp.toNat)) := by
  simp only [classify, BitVec.le_def, BitVec.toNat_ofNat]
  split_ifs <;> simp only [true_and, false_and, false_or, or_false] <;> omega

theorem legalValue_iff (v : Nat) : LegalValue v ↔ v ≤ 0xD7FF ∨ (0xE000 ≤ v ∧ v ≤ 0x10FFFF) := by
  simp only [LegalValue, Config.surrLo, Config.surrHi, Config.cpMax]
  omega

theorem classify_eq_invalid_iff (cp : CodePoint) : classify cp = .invalid ↔ ¬LegalValue cp.toNat := by
  rw [legalValue_iff]
  obtain ⟨hc, _⟩ | ⟨hc, _⟩ | ⟨hc, _⟩ | ⟨hc, _⟩ | ⟨hc, _⟩ := classify_cases cp <;>
    simp only [hc, reduceCtorEq, true_iff, false_iff] <;> omega

/-! ### The packer (43_packer.md R73) -/

/-- Where the mask is `k` ones and `pre` is 0 below bit `k`, a byte lane is `pre` plus `k` bits of the value. -/
theorem packLane_toNat {pre mask : Byte} (k : Nat) (hmask : mask.toNat = 2 ^ k - 1) (hpre : pre.toNat % 2 ^ k = 0)
    (shift : Nat) (cp : CodePoint) :
    (packLane pre shift mask cp).toNat = pre.toNat + cp.toNat / 2 ^ shift % 2 ^ k := by
  have hk : 2 ^ k ∣ 2 ^ 8 := by
    refine Nat.pow_dvd_pow 2 ((Nat.pow_le_pow_iff_right (by decide : 1 < 2)).mp ?_)
    have := mask.isLt
    omega
  obtain ⟨q, hq⟩ := Nat.dvd_of_mod_eq_zero hpre
  have hlt : cp.toNat / 2 ^ shift % 2 ^ k < 2 ^ k := Nat.mod_lt _ (Nat.two_pow_pos k)
  simp only [packLane, BitVec.toNat_or, BitVec.toNat_and, BitVec.toNat_setWidth, BitVec.toNat_ushiftRight,
    Nat.shiftRight_eq_div_pow, hmask, Nat.and_two_pow_sub_one_eq_mod, Nat.mod_mod_of_dvd _ hk, hq]
  exact (Nat.two_pow_add_eq_or_of_lt hlt q).symm

/-- A continuation byte of the packer carries six bits of the value. -/
theorem contPayload_packLane (shift : Nat) (cp : CodePoint) :
    contPayload (packLane 0x80 shift 0x3F cp) = some (cp.toNat / 2 ^ shift % 64) := by
  have h : (packLane 0x80 shift 0x3F cp).toNat = 128 + cp.toNat / 2 ^ shift % 64 := packLane_toNat 6 rfl rfl shift cp
  rw [contPayload, h, if_pos (by omega)]
  congr 1
  omega

section
variable (b1 b2 b3 b4 : Byte)

@[simp] theorem blane_joinLanes_one : blane (joinLanes b1 b2 b3 b4) 1 = b1 :=
  BitVec.extractLsb'_append_eq_right

@[simp] theorem blane_joinLanes_two : blane (joinLanes b1 b2 b3 b4) 2 = b2 :=
  (BitVec.extractLsb'_append_eq_of_le (by decide)).trans BitVec.extractLsb'_append_eq_right

@[simp] theorem blane_joinLanes_three : blane (joinLanes b1 b2 b3 b4) 3 = b3 :=
  (BitVec.extractLsb'_append_eq_of_le (by decide)).trans <|
    (BitVec.extractLsb'_append_eq_of_le (by decide)).trans BitVec.extractLsb'_append_eq_right

@[simp] theorem blane_joinLanes_four : blane (joinLanes b1 b2 b3 b4) 4 = b4 :=
  (BitVec.extractLsb'_append_eq_of_le (by decide)).trans <|
    (BitVec.extractLsb'_append_eq_of_le (by decide)).trans <|
      (BitVec.extractLsb'_append_eq_of_le (by decide)).trans BitVec.extractLsb'_eq_self

end

/-- A plane's code is its number of bytes. -/
theorem pack_nbytes (cp : CodePoint) (p : Plane) : (pack cp (planeCode p)).nbytes = planeCode p := by
  cases p <;> rfl

/-- The packer leaves every byte lane above its number of bytes 0 (20_memory.md R34). -/
theorem blane_pack_of_nbytes_le (cp : CodePoint) (p : Plane) {k : Nat} (hk : k < 4) (hn : (planeCode p).toNat ≤ k) :
    blane (pack cp (planeCode p)).bytes (k + 1) = 0#8 := by
  cases p with
  | invalid => exact BitVec.extractLsb'_zero
  | ascii =>
    replace hn : 1 ≤ k := hn
    interval_cases k <;> simp [pack_ascii, packAscii]
  | latin =>
    replace hn : 2 ≤ k := hn
    interval_cases k <;> simp [pack_latin, packLatin]
  | multilingual =>
    replace hn : 3 ≤ k := hn
    interval_cases k
    simp [pack_multilingual, packMultilingual]
  | extended => exact absurd hn (by simp [planeCode]; omega)

theorem utf8Decode_packAscii {cp : CodePoint} (h : cp.toNat < 0x80) :
    utf8Decode (byteSeq 1#3 (packAscii cp).bytes) = some cp.toNat := by
  have hseq : byteSeq 1#3 (packAscii cp).bytes = [packLane 0x00 0 0x7F cp] := by
    simp [byteSeq, packAscii, List.range_succ]
  have ha : (packLane 0x00 0 0x7F cp).toNat = 0 + cp.toNat / 2 ^ 0 % 2 ^ 7 := packLane_toNat 7 rfl rfl 0 cp
  rw [hseq, utf8Decode, ha, if_pos (by omega)]
  congr 1
  omega

theorem utf8Decode_packLatin {cp : CodePoint} (hlo : 0x80 ≤ cp.toNat) (hhi : cp.toNat < 0x800) :
    utf8Decode (byteSeq 2#3 (packLatin cp).bytes) = some cp.toNat := by
  have hseq : byteSeq 2#3 (packLatin cp).bytes = [packLane 0xC0 6 0x1F cp, packLane 0x80 0 0x3F cp] := by
    simp [byteSeq, packLatin, List.range_succ]
  have ha : (packLane 0xC0 6 0x1F cp).toNat = 0xC0 + cp.toNat / 2 ^ 6 % 2 ^ 5 := packLane_toNat 5 rfl rfl 6 cp
  have hv : (packLane 0xC0 6 0x1F cp).toNat % 32 * 64 + cp.toNat / 2 ^ 0 % 64 = cp.toNat := by omega
  simp only [hseq, utf8Decode, contPayload_packLane, Option.bind_eq_bind, Option.bind_some, hv]
  exact if_pos (by omega)

theorem utf8Decode_packMultilingual {cp : CodePoint} (hlo : 0x800 ≤ cp.toNat) (hhi : cp.toNat < 0x10000)
    (hlegal : LegalValue cp.toNat) : utf8Decode (byteSeq 3#3 (packMultilingual cp).bytes) = some cp.toNat := by
  have hseq : byteSeq 3#3 (packMultilingual cp).bytes =
      [packLane 0xE0 12 0x0F cp, packLane 0x80 6 0x3F cp, packLane 0x80 0 0x3F cp] := by
    simp [byteSeq, packMultilingual, List.range_succ]
  have ha : (packLane 0xE0 12 0x0F cp).toNat = 0xE0 + cp.toNat / 2 ^ 12 % 2 ^ 4 := packLane_toNat 4 rfl rfl 12 cp
  have hv : (packLane 0xE0 12 0x0F cp).toNat % 16 * 4096 + cp.toNat / 2 ^ 6 % 64 * 64 + cp.toNat / 2 ^ 0 % 64 =
      cp.toNat := by omega
  simp only [hseq, utf8Decode, contPayload_packLane, Option.bind_eq_bind, Option.bind_some, hv]
  exact if_pos ⟨by omega, hlo, hlegal⟩

theorem utf8Decode_packExtended {cp : CodePoint} (hlo : 0x10000 ≤ cp.toNat) (hhi : cp.toNat ≤ 0x10FFFF) :
    utf8Decode (byteSeq 4#3 (packExtended cp).bytes) = some cp.toNat := by
  have hseq : byteSeq 4#3 (packExtended cp).bytes =
      [packLane 0xF0 18 0x07 cp, packLane 0x80 12 0x3F cp, packLane 0x80 6 0x3F cp, packLane 0x80 0 0x3F cp] := by
    simp [byteSeq, packExtended, List.range_succ]
  have ha : (packLane 0xF0 18 0x07 cp).toNat = 0xF0 + cp.toNat / 2 ^ 18 % 2 ^ 3 := packLane_toNat 3 rfl rfl 18 cp
  have hv : (packLane 0xF0 18 0x07 cp).toNat % 8 * 262144 + cp.toNat / 2 ^ 12 % 64 * 4096 +
      cp.toNat / 2 ^ 6 % 64 * 64 + cp.toNat / 2 ^ 0 % 64 = cp.toNat := by omega
  simp only [hseq, utf8Decode, contPayload_packLane, Option.bind_eq_bind, Option.bind_some, hv]
  exact if_pos ⟨by omega, hlo, (legalValue_iff _).mpr (by omega)⟩

/-- The packed bytes of a legal code point decode to it (44_encode.md R87). -/
theorem utf8Decode_pack {cp : CodePoint} (h : LegalValue cp.toNat) :
    utf8Decode (byteSeq (planeCode (classify cp)) (pack cp (planeCode (classify cp))).bytes) = some cp.toNat := by
  obtain ⟨hc, hhi⟩ | ⟨hc, hlo, hhi⟩ | ⟨hc, hlo, hhi, _⟩ | ⟨hc, hlo, hhi⟩ | ⟨hc, _⟩ := classify_cases cp
  · rw [hc]
    exact utf8Decode_packAscii hhi
  · rw [hc]
    exact utf8Decode_packLatin hlo hhi
  · rw [hc]
    exact utf8Decode_packMultilingual hlo hhi h
  · rw [hc]
    exact utf8Decode_packExtended hlo hhi
  · exact absurd h ((classify_eq_invalid_iff cp).mp hc)

/-! ### The result of a request (44_encode.md R81, 60_exceptions.md R92) -/

/-- Everything the pipeline can answer: one of the three failures, or the success of a legal code point. -/
theorem encodeRequest_cases (n : BitVec 4) (chars : Chars) :
    encodeRequest n chars = failure .errLength 0#32 ∨
    encodeRequest n chars = failure .errDigit 0#32 ∨
    (∃ cp : CodePoint, ¬LegalValue cp.toNat ∧ encodeRequest n chars = failure .errCodepoint cp) ∨
    (∃ cp : CodePoint, LegalValue cp.toNat ∧
      encodeRequest n chars = success cp (classify cp) (pack cp (planeCode (classify cp)))) := by
  cases hlen : lengthOk n with
  | false => exact .inl (encodeRequest_of_bad_length hlen)
  | true =>
    cases hdig : digitsOk n chars with
    | false => exact .inr (.inl (encodeRequest_of_bad_digit hlen hdig))
    | true =>
      by_cases hc : classify (accumulate n chars) = .invalid
      · exact .inr (.inr (.inl ⟨_, (classify_eq_invalid_iff _).mp hc, encodeRequest_of_illegal hlen hdig hc⟩))
      · exact .inr (.inr (.inr ⟨_, not_not.mp (mt (classify_eq_invalid_iff _).mpr hc),
          encodeRequest_of_legal hlen hdig hc⟩))

/-- The success of a code point with the packed bytes of plane `p`, field by field. -/
theorem success_pack (cp : CodePoint) (p : Plane) :
    success cp p (pack cp (planeCode p)) =
      { ok := true, err := 0#2, nbytes := planeCode p, bytes := (pack cp (planeCode p)).bytes, cp := cp
        plane := planeCode p } := by
  rw [success, pack_nbytes, errCode]

/-- The four valid planes stand for one to four bytes. -/
theorem planeCode_toNat_of_ne_invalid {p : Plane} (h : p ≠ .invalid) :
    1 ≤ (planeCode p).toNat ∧ (planeCode p).toNat ≤ 4 := by
  cases p with
  | invalid => exact absurd rfl h
  | ascii | latin | multilingual | extended => decide

/-! ### Coherent registers -/

/-- A recorded failure is coherent as soon as its cause and its value are. -/
theorem coherent_failure {e : ErrCause} {cp : CodePoint}
    (h : ((e = .errLength ∨ e = .errDigit) ∧ cp = 0#32) ∨ (e = .errCodepoint ∧ ¬LegalValue cp.toNat)) :
    Coherent (Regs.ofResult (failure e cp)) := by
  refine ⟨fun _ _ _ => BitVec.extractLsb'_zero, .inr ⟨rfl, rfl, rfl, .inr ?_⟩⟩
  obtain ⟨rfl | rfl, rfl⟩ | ⟨rfl, hcp⟩ := h
  · exact .inl ⟨rfl, rfl⟩
  · exact .inr (.inl ⟨rfl, rfl⟩)
  · exact .inr (.inr ⟨rfl, hcp⟩)

/-- The recorded success of a legal code point is coherent. -/
theorem coherent_success {cp : CodePoint} (h : LegalValue cp.toNat) :
    Coherent (Regs.ofResult (success cp (classify cp) (pack cp (planeCode (classify cp))))) := by
  have hp : classify cp ≠ .invalid := fun hc => (classify_eq_invalid_iff cp).mp hc h
  obtain ⟨hlo, hhi⟩ := planeCode_toNat_of_ne_invalid hp
  rw [success_pack]
  exact ⟨fun k hk hn => blane_pack_of_nbytes_le cp _ hk hn, .inl ⟨rfl, rfl, hlo, hhi, rfl, h, utf8Decode_pack h⟩⟩

/-- What a request edge writes is coherent, whatever the length and the bus. -/
theorem coherent_encodeRequest (n : BitVec 4) (chars : Chars) : Coherent (Regs.ofResult (encodeRequest n chars)) := by
  obtain h | h | ⟨cp, hcp, h⟩ | ⟨cp, hcp, h⟩ := encodeRequest_cases n chars <;> rw [h]
  · exact coherent_failure (.inl ⟨.inl rfl, rfl⟩)
  · exact coherent_failure (.inl ⟨.inr rfl, rfl⟩)
  · exact coherent_failure (.inr ⟨rfl, hcp⟩)
  · exact coherent_success hcp

theorem coherent_reset : Coherent Regs.reset :=
  ⟨fun _ _ _ => BitVec.extractLsb'_zero, .inr ⟨rfl, rfl, rfl, .inl ⟨rfl, rfl, rfl⟩⟩⟩

/-- Dropping `out_valid` keeps the registers coherent: only the reset values speak of it, and there it is 0. -/
theorem Coherent.dropValid {r : Regs} (h : Coherent r) : Coherent { r with outValid := false } := by
  obtain ⟨hclear, hok | ⟨hok, hn, hp, ⟨he, hcp, _⟩ | herr⟩⟩ := h
  · exact ⟨hclear, .inl hok⟩
  · exact ⟨hclear, .inr ⟨hok, hn, hp, .inl ⟨he, hcp, rfl⟩⟩⟩
  · exact ⟨hclear, .inr ⟨hok, hn, hp, .inr herr⟩⟩

/-! ### Rows and steps (44_encode.md R83) -/

/-- A row of the opcode table runs a request edge, or settles one lane. -/
theorem exec_cases (i : Instr) (s : State) :
    (∃ n chars, exec i s = requestEdge n chars s) ∨ (∃ l h, exec i s = laneSettles l h s) := by
  cases i
  case len0 | lenOdd | encode2 | encode4 | encode6 | encode8 | lenLong10 | lenLong12 | lenLong14 => exact .inl ⟨_, _, rfl⟩
  all_goals exact .inr ⟨_, _, rfl⟩

/-- A request row runs the request edge of its length. -/
theorem exec_requestRow {n : Nat} {chars : Chars} {i : Instr} (h : RequestRow n chars i) (s : State) :
    exec i s = requestEdge (BitVec.ofNat 4 n) chars s := by
  obtain (⟨rfl, rfl⟩ | ⟨rfl, rfl⟩ | ⟨rfl, rfl⟩ | ⟨rfl, rfl⟩) |
    (⟨rfl, rfl⟩ | ⟨m, rfl, _, rfl⟩ | ⟨rfl, rfl⟩ | ⟨rfl, rfl⟩ | ⟨rfl, rfl⟩) := h
  case inr.inr.inl => rw [BitVec.ofNat_toNat, BitVec.setWidth_eq]; rfl
  all_goals rfl

/-- A request's event runs the request edge. -/
theorem runEvent_requestEvent (n : BitVec 4) (chars : Chars) (s : State) :
    runEvent (requestEvent n chars) s = requestEdge n chars s := by
  rw [runEvent, decode_requestEvent]
  exact exec_decodeRequest n chars s

/-- A request edge keeps nothing of the state but the events to come. -/
theorem requestEdge_congr {s s' : State} (n : BitVec 4) (chars : Chars) (h : s.inputs = s'.inputs) :
    requestEdge n chars s = requestEdge n chars s' := by
  simp [requestEdge, State.setRegs, State.setLanes, h]

/-- Each lane decoder puts out `HEXVAL` of its own lane (40_hexdigit.md R59). -/
theorem hexLanes_getElem (chars : Chars) (j : LaneNo) : (hexLanes chars)[j] = hexval (lane chars j) := by
  fin_cases j <;> rfl

/-- A stable edge is read by the levels of `rst` and `in_valid` (44_encode.md R83). -/
theorem decode_edge_cases {p : PortSample} (h : p.stable = true) :
    (p.rst.val = 1#1 ∧ decode (.edge p) = .reset p.inChars.val) ∨
    (p.rst.val = 0#1 ∧ p.inValid.val = 1#1 ∧ decode (.edge p) = .instr (decodeRequest p.inLen.val p.inChars.val)) ∨
    (p.rst.val = 0#1 ∧ p.inValid.val = 0#1 ∧ decode (.edge p) = .idle p.inChars.val) := by
  obtain hr | hr := BitVec.eq_zero_or_eq_one p.rst.val
  · obtain hv | hv := BitVec.eq_zero_or_eq_one p.inValid.val
    · exact .inr (.inr ⟨hr, hv, by simp [decode, h, hr, hv]⟩)
    · exact .inr (.inl ⟨hr, hv, by simp [decode, h, hr, hv]⟩)
  · exact .inl ⟨hr, by simp [decode, h, hr]⟩

/-- Everything a step that answers can do to the registers. -/
theorem step_regs_cases {s t : State} (h : step s = .next t) :
    t.regs = s.regs ∨ (∃ n chars, t.regs = Regs.ofResult (encodeRequest n chars)) ∨ t.regs = Regs.reset ∨
    t.regs = { s.regs with outValid := false } := by
  cases hin : s.inputs with
  | nil =>
    rw [step_nil hin] at h
    cases h
    exact .inl rfl
  | cons e rest =>
    rw [step_cons hin] at h
    obtain ⟨i, _, hrun⟩ | ⟨chars, _, hrun⟩ | ⟨chars, _, hrun⟩ | ⟨_, hrun⟩ := runEvent_cases e { s with inputs := rest } <;>
      rw [hrun] at h
    · obtain ⟨n, chars, hrow⟩ | ⟨l, o, hrow⟩ := exec_cases i { s with inputs := rest } <;> rw [hrow] at h
      · exact .inr (.inl ⟨n, chars, (requestEdge_cases h).1⟩)
      · exact .inl (laneSettles_cases h).1
    · exact .inr (.inr (.inl (resetEdge_cases h).1))
    · exact .inr (.inr (.inr (idleEdge_cases h).1))
    · cases h

/-! ### The obligations -/

/-- Settles O54: a step holds the registers, drops `out_valid`, or writes a request's result or the reset values. -/
theorem everyStepKeepsTheRegistersCoherent : Obligations.EveryStepKeepsTheRegistersCoherent := by
  intro s t hs hstep
  obtain h | ⟨n, chars, h⟩ | h | h := step_regs_cases hstep <;> rw [h]
  · exact hs
  · exact coherent_encodeRequest n chars
  · exact coherent_reset
  · exact hs.dropValid

/-- Settles O31: each of the four answers of the pipeline shows the signal. -/
theorem failureSignalIsUniform : Obligations.FailureSignalIsUniform := by
  intro n chars i s hrow
  refine ⟨_, exec_requestRow hrow s, ?_⟩
  rw [State.setRegs_regs]
  obtain h | h | ⟨cp, _, h⟩ | ⟨cp, _, h⟩ := encodeRequest_cases (BitVec.ofNat 4 n) chars <;>
    simp [h, failure, success, errCode, planeCode]

/-- Settles O32: the row's request edge sets the lanes from the bus and the registers from the result. -/
theorem requestRowsFrame : Obligations.RequestRowsFrame := by
  intro n chars i s hrow
  exact ⟨_, exec_requestRow hrow s, rfl, rfl, hexLanes_getElem chars⟩

/-- Settles O46: only the request edge raises `out_valid`. -/
theorem outValidFollowsTheSampledRequest : Obligations.OutValidFollowsTheSampledRequest := by
  intro s p rest hin hstable
  rw [step_cons hin, runEvent]
  obtain ⟨hr, hd⟩ | ⟨hr, hv, hd⟩ | ⟨hr, hv, hd⟩ := decode_edge_cases hstable <;> simp only [hd]
  · exact ⟨_, rfl, by simp [hr, Regs.reset]⟩
  · exact ⟨_, exec_decodeRequest _ _ _, by simp [hr, hv]⟩
  · exact ⟨_, rfl, by simp [hr, hv]⟩

/-- Settles O40: the seven fields of `Regs.reset`. -/
theorem resetStateHoldsTheResetValues : Obligations.ResetStateHoldsTheResetValues :=
  ⟨rfl, rfl, rfl, rfl, rfl, rfl, rfl⟩

/-- Settles O43: the request overwrites the registers, whatever power-up left in them. -/
theorem firstRequestAtPowerUpNeedsNoReset : Obligations.FirstRequestAtPowerUpNeedsNoReset := by
  intro n chars
  rw [step_cons rfl, step_cons rfl, runEvent_requestEvent, runEvent_requestEvent]
  exact requestEdge_congr n chars rfl

/-- Settles O53: no bytes, no cause, and `out_valid` 0. -/
theorem resetStateIsCoherent : Obligations.ResetStateIsCoherent := coherent_reset

end Sys2Proof.Machine

/-! ## The parsed value, the byte lanes and the order of events (family 20_memory.md)

The accumulator as a sum of natural numbers, the byte lanes above `out_nbytes`, and runs of several steps; from these the
obligations O15, O35, O45, O51 and O39. -/

namespace Sys2Proof.Machine

/-! ### The hex-digit decoder in natural numbers (40_hexdigit.md R56) -/

/-- `HEXVAL` accepts the codes of 30_encoding.md R43. -/
@[simp] theorem hexval_ok (c : Byte) : (hexval c).ok = isHexCode c := by
  simp only [hexval, isHexCode, BitVec.le_def, BitVec.toNat_ofNat]
  split_ifs <;> simp <;> omega

theorem hexval_v_toNat (c : Byte) : (hexval c).v.toNat = digitValue c := by
  simp only [hexval, digitValue, BitVec.le_def, BitVec.toNat_ofNat]
  split_ifs <;> simp [BitVec.toNat_sub] <;> omega

theorem digitValue_lt (c : Byte) : digitValue c < 16 :=
  hexval_v_toNat c ▸ (hexval c).v.isLt

theorem digitsOk_iff_allHex (n : BitVec 4) (chars : Chars) : digitsOk n chars = true ↔ AllHex n.toNat chars := by
  simp [digitsOk]

/-! ### The accumulator in natural numbers (20_memory.md R31, 41_accumulator.md R63) -/

/-- One more digit shifts the value of the string by one hex place. -/
theorem stringValue_succ (n : Nat) (chars : Chars) :
    stringValue (n + 1) chars = 16 * stringValue n chars + digitValue (lane chars n) := by
  have hplace : ∀ i ∈ Finset.range n, digitValue (lane chars i) * 16 ^ (n + 1 - 1 - i) =
      16 * (digitValue (lane chars i) * 16 ^ (n - 1 - i)) := by
    intro i hi
    have hexp : n + 1 - 1 - i = n - 1 - i + 1 := by
      have := Finset.mem_range.mp hi
      omega
    rw [hexp, pow_succ]
    ring
  rw [stringValue, Finset.sum_range_succ, Finset.sum_congr rfl hplace, ← Finset.mul_sum, ← stringValue]
  simp

theorem stringValue_lt (n : Nat) (chars : Chars) : stringValue n chars < 16 ^ n := by
  induction n with
  | zero => simp [stringValue]
  | succ n ih =>
    have hd := digitValue_lt (lane chars n)
    rw [stringValue_succ, pow_succ]
    omega

theorem digitTerm_eq_ofNat (n : BitVec 4) (chars : Chars) (i : Nat) :
    digitTerm n chars i = BitVec.ofNat 32 (digitValue (lane chars i) * 16 ^ (n.toNat - 1 - i)) := by
  have hd := digitValue_lt (lane chars i)
  have hplace : 2 ^ (4 * (n.toNat - 1 - i)) = 16 ^ (n.toNat - 1 - i) := pow_mul 2 4 _
  apply BitVec.eq_of_toNat_eq
  rw [digitTerm, BitVec.toNat_shiftLeft, BitVec.toNat_setWidth, hexval_v_toNat,
    Nat.mod_eq_of_lt (hd.trans (by decide)), Nat.shiftLeft_eq, hplace, BitVec.toNat_ofNat]

/-- The accumulator is the string's value, cut to 32 bits. -/
theorem accumulate_eq_ofNat (n : BitVec 4) (chars : Chars) :
    accumulate n chars = BitVec.ofNat 32 (stringValue n.toNat chars) := by
  have hprefix : ∀ m, (List.range m).foldl (fun sum i => sum + digitTerm n chars i) 0#32 =
      BitVec.ofNat 32 (∑ i ∈ Finset.range m, digitValue (lane chars i) * 16 ^ (n.toNat - 1 - i)) := by
    intro m
    induction m with
    | zero => rfl
    | succ m ih =>
      rw [List.range_succ, List.foldl_append, List.foldl_cons, List.foldl_nil, ih, digitTerm_eq_ofNat,
        Finset.sum_range_succ, BitVec.ofNat_add]
  exact hprefix n.toNat

/-- Up to eight digits fit the 32 bits (00_scope.md R5). -/
theorem accumulate_toNat {n : BitVec 4} (hn : n.toNat ≤ 8) (chars : Chars) :
    (accumulate n chars).toNat = stringValue n.toNat chars := by
  have hlt : stringValue n.toNat chars < 2 ^ 32 :=
    (stringValue_lt n.toNat chars).trans_le (Nat.pow_le_pow_right (by decide) hn)
  rw [accumulate_eq_ofNat, BitVec.toNat_ofNat, Nat.mod_eq_of_lt hlt]

/-- Once the digits are accepted, the result records the accumulated value, legal or not. -/
theorem encodeRequest_cp_of_digits {n : BitVec 4} {chars : Chars} (h : lengthOk n = true)
    (hd : digitsOk n chars = true) : (encodeRequest n chars).cp = accumulate n chars := by
  by_cases hc : classify (accumulate n chars) = .invalid
  · rw [encodeRequest_of_illegal h hd hc, failure]
  · rw [encodeRequest_of_legal h hd hc, success]

/-- The four accepted lengths, as values of `in_len`. -/
theorem EncodeRow.length {n : Nat} {chars : Chars} {i : Instr} (h : EncodeRow n chars i) :
    lengthOk (BitVec.ofNat 4 n) = true ∧ (BitVec.ofNat 4 n).toNat = n ∧ n ≤ 8 := by
  obtain ⟨rfl, _⟩ | ⟨rfl, _⟩ | ⟨rfl, _⟩ | ⟨rfl, _⟩ := h <;> decide

/-! ### Steps and runs (20_memory.md R40) -/

/-- A row of the opcode table answers a next state and takes no event. -/
theorem exec_next (i : Instr) (s : State) : ∃ t, exec i s = .next t ∧ t.inputs = s.inputs := by
  obtain ⟨n, chars, h⟩ | ⟨l, o, h⟩ := exec_cases i s <;> exact ⟨_, h, rfl⟩

/-- An event whose inputs are known answers a next state and takes no further event. -/
theorem runEvent_next {e : Event} (he : decode e ≠ .unknownInput) (s : State) :
    ∃ t, runEvent e s = .next t ∧ t.inputs = s.inputs := by
  obtain ⟨i, _, h⟩ | ⟨chars, _, h⟩ | ⟨chars, _, h⟩ | ⟨hd, _⟩ := runEvent_cases e s
  · rw [h]
    exact exec_next i s
  · exact ⟨_, h, rfl⟩
  · exact ⟨_, h, rfl⟩
  · exact absurd hd he

/-- A step whose events are known answers a next state, with the first event taken. -/
theorem step_next {s : State} (h : ∀ e ∈ s.inputs, decode e ≠ .unknownInput) :
    ∃ t, step s = .next t ∧ t.inputs = s.inputs.tail := by
  cases hin : s.inputs with
  | nil => exact ⟨s, step_nil hin, hin⟩
  | cons e rest =>
    rw [step_cons hin]
    exact runEvent_next (h e (by simp [hin])) _

/-- The step of an instruction's event (44_encode.md R83). -/
theorem step_of_instr {s : State} {e : Event} {rest : List Event} {i : Instr} (hin : s.inputs = e :: rest)
    (hd : decode e = .instr i) : step s = exec i { s with inputs := rest } := by
  rw [step_cons hin, runEvent, hd]

/-- The step of a request's event writes the request's result. -/
theorem step_requestEvent {s : State} {n : BitVec 4} {chars : Chars} {rest : List Event}
    (hin : s.inputs = requestEvent n chars :: rest) :
    ∃ t, step s = .next t ∧ t.regs = Regs.ofResult (encodeRequest n chars) ∧ t.inputs = rest := by
  rw [step_cons hin, runEvent_requestEvent]
  exact ⟨_, rfl, rfl, rfl⟩

/-- The step of an idle edge drops `out_valid` and keeps the data registers (44_encode.md R84). -/
theorem step_idle {s : State} {e : Event} {rest : List Event} (hin : s.inputs = e :: rest) (he : IsIdle e) :
    ∃ t, step s = .next t ∧ t.regs = { s.regs with outValid := false } ∧ t.inputs = rest := by
  obtain ⟨chars, hd⟩ := he
  rw [step_cons hin, runEvent, hd]
  exact ⟨_, rfl, rfl, rfl⟩

/-- Over a run of idle edges the data registers hold, and `out_valid` is kept only by the empty run. -/
theorem run_idle {quiet rest : List Event} (hq : ∀ e ∈ quiet, IsIdle e) {s : State} (hin : s.inputs = quiet ++ rest) :
    ∃ t, core.run quiet.length s = .next t ∧ t.inputs = rest ∧
      t.regs = { s.regs with outValid := quiet.isEmpty && s.regs.outValid } := by
  induction quiet generalizing s with
  | nil => exact ⟨s, run_zero s, hin, rfl⟩
  | cons e quiet ih =>
    obtain ⟨he, hquiet⟩ := List.forall_mem_cons.mp hq
    obtain ⟨u, hstep, hregs, hinputs⟩ := step_idle hin he
    obtain ⟨t, hrun, hrest, ht⟩ := ih hquiet hinputs
    refine ⟨t, (run_succ_of_next hstep).trans hrun, hrest, ?_⟩
    rw [ht, hregs]
    simp

/-! ### The obligations -/

/-- Settles O15: the result records the accumulated value, and eight digits fit `out_cp`. -/
theorem parsedValueIsBigEndianSum : Obligations.ParsedValueIsBigEndianSum := by
  intro n chars i s hrow hhex
  obtain ⟨hlen, hn, hle⟩ := hrow.length
  have hdig : digitsOk (BitVec.ofNat 4 n) chars = true := (digitsOk_iff_allHex _ chars).mpr (hn.symm ▸ hhex)
  refine ⟨_, exec_requestRow (.inl hrow) s, ?_⟩
  rw [State.setRegs_regs, Regs.ofResult_outCp, encodeRequest_cp_of_digits hlen hdig,
    accumulate_toNat (hn.symm ▸ hle), hn]

/-- Settles O35: what a request edge writes is coherent, which fixes the unused byte lanes and the failures. -/
theorem unusedByteLanesAreZero : Obligations.UnusedByteLanesAreZero := by
  intro n chars i s hrow
  refine ⟨_, exec_requestRow hrow s, ?_⟩
  rw [State.setRegs_regs]
  obtain ⟨hclear, hresult⟩ := coherent_encodeRequest (BitVec.ofNat 4 n) chars
  refine ⟨fun k h1 h4 hk => ?_, fun hfail => ?_⟩
  · obtain ⟨k, rfl⟩ := Nat.exists_eq_add_of_le' h1
    exact hclear k (by omega) (by omega)
  · obtain ⟨hok, _⟩ | ⟨_, hn, _⟩ := hresult
    · exact absurd (hok.symm.trans hfail) (by decide)
    · exact hn

/-- Settles O45: the request's step, then a run of idle edges. -/
theorem resultIsHeldUntilTheNextRequest : Obligations.ResultIsHeldUntilTheNextRequest := by
  intro s n chars quiet rest hq hin
  obtain ⟨u, hstep, hregs, hinputs⟩ := step_requestEvent hin
  obtain ⟨t, hrun, hrest, ht⟩ := run_idle hq hinputs
  refine ⟨t, (run_succ_of_next hstep).trans hrun, hrest, ?_⟩
  rw [ht, hregs, Regs.ofResult_outValid, Bool.and_true]

/-- Settles O51, by induction on the number of steps: each takes the first event, and the others stay known. -/
theorem knownInputsNeverStopTheBlock : Obligations.KnownInputsNeverStopTheBlock := by
  intro k
  induction k with
  | zero => exact fun s _ => ⟨s, run_zero s, rfl⟩
  | succ k ih =>
    intro s hknown
    obtain ⟨u, hstep, hu⟩ := step_next hknown
    obtain ⟨t, hrun, ht⟩ := ih u fun e he => hknown e (List.mem_of_mem_tail (hu ▸ he))
    refine ⟨t, (run_succ_of_next hstep).trans hrun, ?_⟩
    rw [ht, hu, List.drop_tail]

/-- Settles O39: the event is taken, and its row runs. -/
theorem stepRunsTheDecodedInstruction : Obligations.StepRunsTheDecodedInstruction :=
  fun _ _ _ _ hin hd => step_of_instr hin hd

end Sys2Proof.Machine

/-! ## The encodings, the digits' nibbles and the lead byte (family 30_encoding.md)

The decoder and the encoder row by row, the text form's lanes, the digits in their nibbles and the class of each packed
byte; from these the obligations O1, O2, O5, O9, O14, O36, O55, O3, O4, O6, O7 and O50. -/

namespace Sys2Proof.Machine

/-! ### The request rows (30_encoding.md R44) -/

/-- The length decode selects the request row of its length. -/
theorem requestRow_decodeRequest (n : BitVec 4) (chars : Chars) : RequestRow n.toNat chars (decodeRequest n chars) := by
  obtain ⟨k, rfl⟩ : ∃ k : Fin 16, n = BitVec.ofFin k := ⟨n.toFin, rfl⟩
  fin_cases k <;> simp [decodeRequest, RequestRow, EncodeRow, LengthRow]

theorem getLsbD_zero_eq (n : BitVec 4) : n.getLsbD 0 = decide (n.toNat % 2 = 1) :=
  Nat.testBit_zero n.toNat

/-- A request row is well-formed. -/
theorem RequestRow.wellFormed {n : Nat} {chars : Chars} {i : Instr} (h : RequestRow n chars i) :
    WellFormed i = true := by
  obtain (⟨_, rfl⟩ | ⟨_, rfl⟩ | ⟨_, rfl⟩ | ⟨_, rfl⟩) |
    (⟨_, rfl⟩ | ⟨m, rfl, hodd, rfl⟩ | ⟨_, rfl⟩ | ⟨_, rfl⟩ | ⟨_, rfl⟩) := h
  case inr.inr.inl => exact (getLsbD_zero_eq m).trans (decide_eq_true hodd)
  all_goals rfl

/-- A request row stands for the request of its length. -/
theorem RequestRow.encode_eq {n : Nat} {chars : Chars} {i : Instr} (h : RequestRow n chars i) :
    encode i = requestEvent (BitVec.ofNat 4 n) chars := by
  obtain (⟨rfl, rfl⟩ | ⟨rfl, rfl⟩ | ⟨rfl, rfl⟩ | ⟨rfl, rfl⟩) |
    (⟨rfl, rfl⟩ | ⟨m, rfl, _, rfl⟩ | ⟨rfl, rfl⟩ | ⟨rfl, rfl⟩ | ⟨rfl, rfl⟩) := h
  case inr.inr.inl => rw [BitVec.ofNat_toNat, BitVec.setWidth_eq, encode]
  all_goals rfl

/-! ### The character rows (30_encoding.md R43, 40_hexdigit.md R56, R58) -/

/-- The selected row stands for the event that selected it. -/
theorem encode_decodeChar (l : LaneNo) (c : Byte) : encode (decodeChar l c) = .lane l c := by
  fun_cases decodeChar l c <;> rfl

/-- The default row is selected only where none of the 22 codes matches. -/
theorem wellFormed_decodeChar (l : LaneNo) (c : Byte) : WellFormed (decodeChar l c) = true := by
  fun_cases decodeChar l c
  case case23 =>
    simp only [BitVec.toNat_eq, BitVec.toNat_ofNat, imp_false] at *
    simp only [WellFormed, isHexCode, Bool.not_eq_true', Bool.or_eq_false_iff, Bool.and_eq_false_imp,
      decide_eq_true_eq, decide_eq_false_iff_not]
    omega
  all_goals rfl

theorem decodeChar_of_not_isHexCode {c : Byte} (h : isHexCode c = false) (l : LaneNo) :
    decodeChar l c = .charInvalid l c := by
  fun_cases decodeChar l c
  case case23 => rfl
  all_goals cases h

theorem hexval_of_not_isHexCode {c : Byte} (h : isHexCode c = false) : hexval c = ⟨false, 0#4⟩ := by
  simp only [isHexCode, Bool.or_eq_false_iff, Bool.and_eq_false_imp, decide_eq_true_eq, decide_eq_false_iff_not] at h
  simp only [hexval, BitVec.le_def, BitVec.toNat_ofNat]
  rw [if_neg (by omega), if_neg (by omega), if_neg (by omega)]

/-- The selected row settles its lane at `HEXVAL` of the code. -/
theorem exec_decodeChar (l : LaneNo) (c : Byte) (s : State) :
    exec (decodeChar l c) s = laneSettles l (hexval c) s := by
  cases h : isHexCode c with
  | false =>
    rw [decodeChar_of_not_isHexCode h, hexval_of_not_isHexCode h]
    rfl
  | true =>
    have hwf := wellFormed_decodeChar l c
    revert hwf
    fun_cases decodeChar l c
    case case23 => simp [WellFormed, h]
    all_goals exact fun _ => rfl

theorem hexvalGate_toNat (c : Byte) :
    (hexvalGate c).toNat = if c.toNat / 64 % 2 = 1 then (c.toNat % 16 + 9) % 16 else c.toNat % 16 := by
  have hbit : c.getLsbD 6 = decide (c.toNat / 64 % 2 = 1) := Nat.testBit_eq_decide_div_mod_eq
  have hlow : (c.extractLsb' 0 4).toNat = c.toNat % 16 := by simp
  simp only [hexvalGate, hbit, decide_eq_true_eq]
  split
  · rw [BitVec.toNat_add, hlow]
    rfl
  · exact hlow

/-- The gate form computes the value of a valid code. -/
theorem hexval_v_eq_hexvalGate {c : Byte} (h : isHexCode c = true) : (hexval c).v = hexvalGate c := by
  simp only [isHexCode, Bool.or_eq_true, Bool.and_eq_true, decide_eq_true_eq] at h
  apply BitVec.eq_of_toNat_eq
  rw [hexval_v_toNat, hexvalGate_toNat, digitValue]
  split_ifs <;> omega

/-! ### Decoding an event -/

/-- A stable edge with `rst = 0` and `in_valid = 1` presents the request on its pins (44_encode.md R83). -/
theorem edge_eq_requestEvent {p : PortSample} (hs : p.stable = true) (hr : p.rst.val = 0#1)
    (hv : p.inValid.val = 1#1) : Event.edge p = requestEvent p.inLen.val p.inChars.val := by
  obtain ⟨⟨rst, _⟩, ⟨inValid, _⟩, ⟨inLen, _⟩, ⟨inChars, _⟩⟩ := p
  simp_all [PortSample.stable, requestEvent, Pins.known]

/-- An event that decodes to an instruction is a request's edge or a lane's change. -/
theorem decode_eq_instr_cases {e : Event} {i : Instr} (h : decode e = .instr i) :
    (∃ n chars, e = requestEvent n chars ∧ i = decodeRequest n chars) ∨
    (∃ l c, e = .lane l c ∧ i = decodeChar l c) := by
  cases e with
  | lane l c =>
    cases h
    exact .inr ⟨l, c, rfl, rfl⟩
  | edge p =>
    cases hs : p.stable with
    | false => simp [decode, hs] at h
    | true =>
      obtain ⟨_, hd⟩ | ⟨hr, hv, hd⟩ | ⟨_, _, hd⟩ := decode_edge_cases hs <;> rw [hd] at h <;> cases h
      exact .inl ⟨_, _, edge_eq_requestEvent hs hr hv, rfl⟩

/-! ### The text form (30_encoding.md R53) -/

/-- A bus joined from eight bytes holds byte `j` in lane `j` (20_memory.md R32). -/
theorem lane_append (c : Nat → Byte) {j : Nat} (hj : j < 8) :
    lane (c 7 ++ c 6 ++ c 5 ++ c 4 ++ c 3 ++ c 2 ++ c 1 ++ c 0) j = c j := by
  unfold lane
  interval_cases j <;>
    simp (disch := decide) only [BitVec.extractLsb'_append_eq_of_le, BitVec.extractLsb'_append_eq_right,
      Nat.reduceMul, Nat.reduceSub, BitVec.extractLsb'_eq_self]

theorem lane_packChars (s : List Char) {j : Nat} (hj : j < 8) : lane (packChars s) j = charCode s j :=
  lane_append (charCode s) hj

/-- A lane's code is its ASCII character, or 0 past the string. -/
theorem charCode_toNat {s : List Char} (hascii : ∀ c ∈ s, c.toNat < 128) (j : Nat) :
    (charCode s j).toNat = (s[j]?.map Char.toNat).getD 0 := by
  unfold charCode
  cases hc : s[j]? with
  | none => rfl
  | some c =>
    have := hascii c (List.mem_of_getElem? hc)
    exact Nat.mod_eq_of_lt (by omega)

/-! ### The digits' nibbles (30_encoding.md R45, 41_accumulator.md R64) -/

/-- Digit `j` is the hex digit at its place in the value of the string. -/
theorem stringValue_digit (chars : Chars) {n j : Nat} (hj : j < n) :
    stringValue n chars / 16 ^ (n - 1 - j) % 16 = digitValue (lane chars j) := by
  induction n with
  | zero => omega
  | succ n ih =>
    have hd := digitValue_lt (lane chars n)
    rw [stringValue_succ, Nat.add_sub_cancel]
    obtain hjn | rfl := Nat.lt_succ_iff_lt_or_eq.mp hj
    · have hexp : n - j = n - 1 - j + 1 := by omega
      rw [hexp, pow_succ', ← Nat.div_div_eq_div_mul, ← ih hjn]
      congr 2
      omega
    · rw [Nat.sub_self]
      omega

theorem accumulate_extractLsb' {n : BitVec 4} (hn : n.toNat ≤ 8) (chars : Chars) {j : Nat} (hj : j < n.toNat) :
    (accumulate n chars).extractLsb' (4 * (n.toNat - 1 - j)) 4 = (hexval (lane chars j)).v := by
  have hplace : 2 ^ (4 * (n.toNat - 1 - j)) = 16 ^ (n.toNat - 1 - j) := pow_mul 2 4 _
  apply BitVec.eq_of_toNat_eq
  rw [BitVec.extractLsb'_toNat, accumulate_toNat hn, Nat.shiftRight_eq_div_pow, hplace, hexval_v_toNat]
  exact stringValue_digit chars hj

/-- The OR of the first `m` terms is the value of the first `m` digits, moved to their place: term `m` lies below the
lowest bit that the terms before it set, so ORing it is adding it. -/
theorem foldl_or_digitTerm (n : BitVec 4) (chars : Chars) {m : Nat} (hm : m ≤ n.toNat) :
    (List.range m).foldl (fun bits i => bits ||| digitTerm n chars i) 0#32 =
      BitVec.ofNat 32 (stringValue m chars * 16 ^ (n.toNat - m)) := by
  induction m with
  | zero => simp [stringValue]
  | succ m ih =>
    obtain ⟨k, hk⟩ := Nat.exists_eq_add_of_le hm
    have hplace : 2 ^ (4 * (k + 1)) = 16 ^ (k + 1) := pow_mul 2 4 _
    have hlow : digitValue (lane chars m) * 16 ^ k < 2 ^ (4 * (k + 1)) := by
      rw [hplace, pow_succ']
      exact Nat.mul_lt_mul_of_pos_right (digitValue_lt _) (by positivity)
    have hadd := Nat.two_pow_add_eq_or_of_lt hlow (stringValue m chars)
    rw [List.range_succ, List.foldl_append, List.foldl_cons, List.foldl_nil, ih (by omega), digitTerm_eq_ofNat,
      ← BitVec.ofNat_or, show n.toNat - m = k + 1 by omega, show n.toNat - 1 - m = k by omega,
      show n.toNat - (m + 1) = k by omega, ← hplace, mul_comm (stringValue m chars), ← hadd, hplace, stringValue_succ]
    congr 1
    ring

/-- No carry moves between the terms of the sum. -/
theorem accumulate_eq_foldl_or (n : BitVec 4) (chars : Chars) :
    accumulate n chars = (List.range n.toNat).foldl (fun bits i => bits ||| digitTerm n chars i) 0#32 := by
  rw [foldl_or_digitTerm n chars le_rfl, accumulate_eq_ofNat, Nat.sub_self, pow_zero, mul_one]

/-! ### The classes of the packed bytes (30_encoding.md R50) -/

section
variable (shift : Nat) (cp : CodePoint)

theorem shownLength_packLane_ascii : shownLength (packLane 0x00 shift 0x7F cp) = some 1#3 := by
  simp [shownLength, byteClass, packLane]

theorem shownLength_packLane_latin : shownLength (packLane 0xC0 shift 0x1F cp) = some 2#3 := by
  simp [shownLength, byteClass, packLane, BitVec.extractLsb'_or, BitVec.extractLsb'_and]

theorem shownLength_packLane_multilingual : shownLength (packLane 0xE0 shift 0x0F cp) = some 3#3 := by
  simp [shownLength, byteClass, packLane, BitVec.extractLsb'_or, BitVec.extractLsb'_and]

theorem shownLength_packLane_extended : shownLength (packLane 0xF0 shift 0x07 cp) = some 4#3 := by
  simp [shownLength, byteClass, packLane, BitVec.extractLsb'_or, BitVec.extractLsb'_and]

/-- The top bits `10` are those of no lead byte. -/
theorem byteClass_of_top_bits {b : Byte} (h : b.toNat / 64 = 2) : byteClass b = .continuation := by
  have hbit : b.getLsbD 7 = decide (b.toNat / 128 % 2 = 1) := Nat.testBit_eq_decide_div_mod_eq
  simp only [byteClass, hbit, BitVec.toNat_eq, BitVec.extractLsb'_toNat, Nat.shiftRight_eq_div_pow, BitVec.toNat_ofNat,
    decide_eq_false_iff_not]
  rw [if_neg (by omega), if_neg (by omega), if_neg (by omega), if_neg (by omega), if_pos (by omega)]

theorem byteClass_packLane_continuation : byteClass (packLane 0x80 shift 0x3F cp) = .continuation := by
  have h : (packLane 0x80 shift 0x3F cp).toNat = 128 + cp.toNat / 2 ^ shift % 64 := packLane_toNat 6 rfl rfl shift cp
  exact byteClass_of_top_bits (by omega)

end

/-- Byte 1 of a packed sequence shows the plane's number of bytes. -/
theorem shownLength_pack (cp : CodePoint) {p : Plane} (hp : p ≠ .invalid) :
    shownLength (blane (pack cp (planeCode p)).bytes 1) = some (planeCode p) := by
  cases p with
  | invalid => exact absurd rfl hp
  | ascii =>
    rw [pack_ascii, packAscii, blane_joinLanes_one]
    exact shownLength_packLane_ascii 0 cp
  | latin =>
    rw [pack_latin, packLatin, blane_joinLanes_one]
    exact shownLength_packLane_latin 6 cp
  | multilingual =>
    rw [pack_multilingual, packMultilingual, blane_joinLanes_one]
    exact shownLength_packLane_multilingual 12 cp
  | extended =>
    rw [pack_extended, packExtended, blane_joinLanes_one]
    exact shownLength_packLane_extended 18 cp

/-- Every later byte of a packed sequence is a continuation byte. -/
theorem byteClass_pack_later (cp : CodePoint) (p : Plane) {k : Nat} (h2 : 2 ≤ k) (hk : k ≤ (planeCode p).toNat) :
    byteClass (blane (pack cp (planeCode p)).bytes k) = .continuation := by
  cases p with
  | invalid | ascii => exact absurd (h2.trans hk) (by decide)
  | latin =>
    replace hk : k ≤ 2 := hk
    interval_cases k
    simp only [pack_latin, packLatin, blane_joinLanes_two, byteClass_packLane_continuation]
  | multilingual =>
    replace hk : k ≤ 3 := hk
    interval_cases k <;>
      simp only [pack_multilingual, packMultilingual, blane_joinLanes_two, blane_joinLanes_three,
        byteClass_packLane_continuation]
  | extended =>
    replace hk : k ≤ 4 := hk
    interval_cases k <;>
      simp only [pack_extended, packExtended, blane_joinLanes_two, blane_joinLanes_three, blane_joinLanes_four,
        byteClass_packLane_continuation]

/-! ### The obligations -/

/-- Settles O3: the decode gives the row of its length, and no length has two rows. -/
theorem lengthPatternsSelectTheirRows : Obligations.LengthPatternsSelectTheirRows := by
  intro n chars
  obtain (⟨hn, hi⟩ | ⟨hn, hi⟩ | ⟨hn, hi⟩ | ⟨hn, hi⟩) |
    (⟨hn, hi⟩ | ⟨m, hm, hn, hi⟩ | ⟨hn, hi⟩ | ⟨hn, hi⟩ | ⟨hn, hi⟩) := requestRow_decodeRequest n chars
  case inr.inr.inl =>
    obtain rfl := BitVec.eq_of_toNat_eq hm
    simp only [hi, reduceCtorEq, false_iff, true_iff]
    omega
  all_goals simp [hi, hn]

/-- Settles O1: a request row's length and a character row's code select the row again; `lenOdd` and `charInvalid` need
their operand's check. -/
theorem decodeEncodeIsIdentity : Obligations.DecodeEncodeIsIdentity := by
  intro i hwf
  cases i
  case len0 | encode2 | encode4 | encode6 | encode8 | lenLong10 | lenLong12 | lenLong14 => simp [encode, decodeRequest]
  case lenOdd n chars =>
    obtain ⟨_, hodd, _⟩ := lengthPatternsSelectTheirRows n chars
    exact congrArg Decoded.instr (hodd.mpr (of_decide_eq_true ((getLsbD_zero_eq n).symm.trans hwf)))
  case charInvalid l c => exact congrArg Decoded.instr (decodeChar_of_not_isHexCode (by simpa [WellFormed] using hwf) l)
  all_goals rfl

/-- Settles O2: such an event is a request's edge or a lane's change, and its row stands for it. -/
theorem encodeDecodeIsIdentity : Obligations.EncodeDecodeIsIdentity := by
  intro e i h
  obtain ⟨n, chars, rfl, rfl⟩ | ⟨l, c, rfl, rfl⟩ := decode_eq_instr_cases h
  · have hrow := requestRow_decodeRequest n chars
    exact ⟨hrow.wellFormed, by rw [hrow.encode_eq, BitVec.ofNat_toNat, BitVec.setWidth_eq]⟩
  · exact ⟨wellFormed_decodeChar l c, encode_decodeChar l c⟩

/-- Settles O5: the string's length fits `in_len`, and its characters stand in their lanes. -/
theorem textLinePresentsItsString : Obligations.TextLinePresentsItsString := by
  intro s hlen hascii
  refine ⟨_, _, if_pos ?_, Nat.mod_eq_of_lt (by omega), fun j hj => ?_⟩
  · simpa [hlen] using hascii
  · rw [lane_packChars s hj, charCode_toNat hascii]

/-- Settles O9: row by row against `HEXVAL`, and `HEXVAL` against the table and the gate form. -/
theorem charRowsAgreeWithHexval : Obligations.CharRowsAgreeWithHexval := fun l c s =>
  ⟨exec_decodeChar l c s, hexval_ok c, hexval_v_toNat c, fun h => hexval_v_eq_hexvalGate (hexval_ok c ▸ h)⟩

/-- Settles O14: the accumulator is the string's value, whose hex digits are the lanes' digits. -/
theorem digitsLandInTheirNibbles : Obligations.DigitsLandInTheirNibbles := by
  intro n chars hn
  have hle : n.toNat ≤ 8 := by omega
  refine ⟨fun j hj => accumulate_extractLsb' hle chars hj, ?_, accumulate_eq_foldl_or n chars⟩
  rw [accumulate_toNat hle]
  exact stringValue_lt _ chars

/-- Settles O36: only a legal code point succeeds, with the bytes of its plane. -/
theorem leadByteShowsTheLength : Obligations.LeadByteShowsTheLength := by
  intro n chars i s hrow
  refine ⟨_, exec_requestRow hrow s, ?_⟩
  rw [State.setRegs_regs]
  obtain h | h | ⟨cp, _, h⟩ | ⟨cp, hcp, h⟩ := encodeRequest_cases (BitVec.ofNat 4 n) chars <;> rw [h]
  · exact nofun
  · exact nofun
  · exact nofun
  · have hp : classify cp ≠ .invalid := fun hc => (classify_eq_invalid_iff cp).mp hc hcp
    rw [success_pack]
    exact fun _ => ⟨shownLength_pack cp hp, fun k h2 hk => byteClass_pack_later cp _ h2 hk⟩

/-- Settles O55: either edge overwrites all seven registers. -/
theorem requestOrResetMakesTheRegistersCoherent : Obligations.RequestOrResetMakesTheRegistersCoherent := by
  intro s e rest hin he
  obtain ⟨n, chars, hd⟩ | ⟨chars, hd⟩ := he
  · rw [step_of_instr hin hd, exec_decodeRequest]
    exact ⟨_, rfl, coherent_encodeRequest n chars⟩
  · rw [step_cons hin, runEvent, hd]
    exact ⟨_, rfl, coherent_reset⟩

/-- Settles O4: each number's event, decoded. -/
theorem tableWordsDecodeToTheirRows : Obligations.TableWordsDecodeToTheirRows :=
  ⟨rfl, rfl, rfl, rfl, rfl, rfl, rfl, rfl⟩

/-- Settles O6: each row settles its lane at its digit's value. -/
theorem decimalDigitRowsGiveTheirValues : Obligations.DecimalDigitRowsGiveTheirValues := fun _ _ =>
  ⟨rfl, rfl, rfl, rfl, rfl, rfl, rfl, rfl, rfl, rfl⟩

/-- Settles O7: each row settles its lane at its letter's value, in either case. -/
theorem letterRowsGiveTheirValues : Obligations.LetterRowsGiveTheirValues := fun _ _ =>
  ⟨⟨rfl, rfl⟩, ⟨rfl, rfl⟩, ⟨rfl, rfl⟩, ⟨rfl, rfl⟩, ⟨rfl, rfl⟩, ⟨rfl, rfl⟩⟩

/-- Settles O50: a row runs a request edge or settles a lane, and both answer. -/
theorem everyInstructionCompletes : Obligations.EveryInstructionCompletes := exec_next

end Sys2Proof.Machine

/-! ## The character rows' frame and the letters' case (family 40_hexdigit.md)

A character row settles its own lane only, `HEXVAL` gives a letter one value in either case, and a request's result reads
its lanes through `HEXVAL`; from these the obligations O10, O11 and O8. -/

namespace Sys2Proof.Machine

/-! ### A character row's lane (40_hexdigit.md R56) -/

/-- A lane decoder's change leaves the other lanes as they are. -/
theorem State.setLane_lanes_getElem_ne (s : State) (h : HexOut) {l j : LaneNo} (hj : j ≠ l) :
    (s.setLane l h).lanes[j] = s.lanes[j] :=
  Vector.getElem_set_ne l.isLt j.isLt (Fin.val_ne_of_ne hj.symm)

/-- A row that stands for a lane's event settles that lane, also where a `charInvalid` carries one of the 22 codes. -/
theorem exec_of_encode_eq_lane {i : Instr} {l : LaneNo} {c : Byte} (h : encode i = .lane l c) :
    ∃ o, ∀ s, exec i s = laneSettles l o s := by
  cases i
  case len0 | lenOdd | encode2 | encode4 | encode6 | encode8 | lenLong10 | lenLong12 | lenLong14 => cases h
  all_goals
    cases h
    exact ⟨_, fun _ => rfl⟩

/-! ### Letters and codes that are no digit (40_hexdigit.md R57, R58) -/

theorem hexval_upper {k : Nat} (hk : k < 6) :
    hexval (BitVec.ofNat 8 (0x41 + k)) = ⟨true, BitVec.ofNat 4 (10 + k)⟩ := by
  interval_cases k <;> rfl

theorem hexval_lower {k : Nat} (hk : k < 6) :
    hexval (BitVec.ofNat 8 (0x61 + k)) = ⟨true, BitVec.ofNat 4 (10 + k)⟩ := by
  interval_cases k <;> rfl

/-- Bit 5 alone tells a letter's two cases apart. -/
theorem upper_xor_caseBit {k : Nat} (hk : k < 6) :
    BitVec.ofNat 8 (0x41 + k) ^^^ 0x20#8 = BitVec.ofNat 8 (0x61 + k) := by
  interval_cases k <;> rfl

theorem lower_xor_caseBit {k : Nat} (hk : k < 6) :
    BitVec.ofNat 8 (0x61 + k) ^^^ 0x20#8 = BitVec.ofNat 8 (0x41 + k) := by
  rw [← upper_xor_caseBit hk, BitVec.xor_assoc, BitVec.xor_self, BitVec.xor_zero]

/-- A code in a range of six is the range's first code plus the letter's number. -/
theorem eq_ofNat_add_of_mem_range {c : Byte} {first : Nat} (hlo : first ≤ c.toNat) (hhi : c.toNat ≤ first + 5) :
    ∃ k, k < 6 ∧ c = BitVec.ofNat 8 (first + k) :=
  ⟨c.toNat - first, by omega, by rw [Nat.add_sub_cancel' hlo, BitVec.ofNat_toNat, BitVec.setWidth_eq]⟩

/-- Changing a letter's case keeps its decoder's outputs. -/
theorem hexval_xor_caseBit {c : Byte}
    (h : (0x41 ≤ c.toNat ∧ c.toNat ≤ 0x46) ∨ (0x61 ≤ c.toNat ∧ c.toNat ≤ 0x66)) :
    hexval (c ^^^ 0x20#8) = hexval c := by
  obtain ⟨hlo, hhi⟩ | ⟨hlo, hhi⟩ := h
  · obtain ⟨k, hk, rfl⟩ := eq_ofNat_add_of_mem_range hlo hhi
    rw [upper_xor_caseBit hk, hexval_lower hk, hexval_upper hk]
  · obtain ⟨k, hk, rfl⟩ := eq_ofNat_add_of_mem_range hlo hhi
    rw [lower_xor_caseBit hk, hexval_upper hk, hexval_lower hk]

theorem isHexCode_of_0x80_le {c : Byte} (h : 0x80 ≤ c.toNat) : isHexCode c = false := by
  simp only [isHexCode, Bool.or_eq_false_iff, Bool.and_eq_false_imp, decide_eq_true_eq, decide_eq_false_iff_not]
  omega

/-! ### A request reads its lanes through `HEXVAL` (41_accumulator.md R62, R63) -/

section
variable {n : BitVec 4} {chars chars' : Chars} (h : ∀ j, j < n.toNat → hexval (lane chars' j) = hexval (lane chars j))
include h

theorem digitsOk_congr : digitsOk n chars' = digitsOk n chars := by
  rw [Bool.eq_iff_iff, digitsOk_iff_allHex, digitsOk_iff_allHex]
  exact forall₂_congr fun j hj => by rw [← hexval_ok, ← hexval_ok, h j hj]

theorem accumulate_congr : accumulate n chars' = accumulate n chars :=
  List.foldl_ext _ _ _ fun sum j hj => by rw [digitTerm, digitTerm, h j (List.mem_range.mp hj)]

theorem parse_congr : parse n chars' = parse n chars := by
  rw [parse, parse, digitsOk_congr h, accumulate_congr h]

/-- The result is a function of the significant lanes' decoder outputs. -/
theorem encodeRequest_congr : encodeRequest n chars' = encodeRequest n chars := by
  rw [encodeRequest, encodeRequest, parse_congr h]

end

/-! ### The obligations -/

/-- Settles O10: the row settles its own lane. -/
theorem charRowsChangeOneLaneOnly : Obligations.CharRowsChangeOneLaneOnly := by
  intro i l c s henc
  obtain ⟨o, hrow⟩ := exec_of_encode_eq_lane henc
  exact ⟨_, hrow s, rfl, rfl, fun j hj => s.setLane_lanes_getElem_ne o hj⟩

/-- Settles O11: a lane keeps its decoder's outputs when its letter changes case, and the result reads only those. -/
theorem caseDoesNotMatter : Obligations.CaseDoesNotMatter := by
  refine ⟨fun k hk => ⟨hexval_upper hk, hexval_lower hk⟩, by decide, ?_⟩
  intro n chars chars' i i' s hrow hrow' hcase
  obtain ⟨_, hn, _⟩ := hrow.length
  have hlanes : ∀ j, j < (BitVec.ofNat 4 n).toNat → hexval (lane chars' j) = hexval (lane chars j) := by
    intro j hj
    obtain hsame | ⟨hletter, hflip⟩ := hcase j (hn ▸ hj)
    · rw [hsame]
    · rw [hflip, hexval_xor_caseBit hletter]
  refine ⟨_, _, exec_requestRow (.inl hrow) s, exec_requestRow (.inl hrow') s, ?_⟩
  rw [State.setRegs_regs, State.setRegs_regs, encodeRequest_congr hlanes]

/-- Settles O8: such a code selects the default row, which puts out (0, 0); the 22 codes lie below 0x80. -/
theorem invalidCharRowGivesZero : Obligations.InvalidCharRowGivesZero :=
  ⟨fun l _ _ h => ⟨decodeChar_of_not_isHexCode h l, rfl⟩, fun _ => isHexCode_of_0x80_le⟩

end Sys2Proof.Machine

/-! ## The accumulator's shifted form, leading zeros and the accepted lengths (family 41_accumulator.md)

The concatenation of the eight digits as a string of length 8, whose shift drops the last digits; the string with two
zeros put before it, which keeps its value and its validity; and from these the obligations O13, O16 and O12. -/

namespace Sys2Proof.Machine

/-! ### The shifted concatenation (41_accumulator.md R63) -/

/-- Joining one more digit is multiplying by 16 and adding it. -/
theorem toNat_append_nibble {w : Nat} (x : BitVec w) (v : BitVec 4) : (x ++ v).toNat = 16 * x.toNat + v.toNat := by
  rw [BitVec.toNat_append, Nat.shiftLeft_eq, mul_comm, ← Nat.two_pow_add_eq_or_of_lt v.isLt]

/-- The eight digits joined are the value of all eight lanes. -/
theorem accumulateShift_toNat (n : BitVec 4) (chars : Chars) :
    (accumulateShift n chars).toNat = stringValue 8 chars / 16 ^ (8 - n.toNat) := by
  have hplace : 2 ^ (4 * (8 - n.toNat)) = 16 ^ (8 - n.toNat) := pow_mul 2 4 _
  rw [accumulateShift, BitVec.toNat_ushiftRight, Nat.shiftRight_eq_div_pow, hplace]
  congr 1
  simp only [toNat_append_nibble, hexval_v_toNat, stringValue_succ]
  simp [stringValue]

/-- Dropping the last `k` hex places of a string's value drops its last `k` digits. -/
theorem stringValue_add_div (n k : Nat) (chars : Chars) : stringValue (n + k) chars / 16 ^ k = stringValue n chars := by
  induction k with
  | zero => simp
  | succ k ih =>
    have hd := digitValue_lt (lane chars (n + k))
    rw [← add_assoc, stringValue_succ, pow_succ', ← Nat.div_div_eq_div_mul, ← ih]
    congr 1
    omega

/-- The hardware form is the sum for every length that fits the bus. -/
theorem accumulate_eq_accumulateShift {n : BitVec 4} (hn : n.toNat ≤ 8) (chars : Chars) :
    accumulate n chars = accumulateShift n chars := by
  apply BitVec.eq_of_toNat_eq
  rw [accumulate_toNat hn, accumulateShift_toNat, ← stringValue_add_div n.toNat (8 - n.toNat), Nat.add_sub_cancel' hn]

/-! ### Leading zeros (41_accumulator.md R65) -/

/-- The bus with two characters '0' put before its string: the last two lanes are lost. -/
abbrev padZeros (chars : Chars) : Chars := chars <<< 16 ||| 0x3030#64

section
variable (chars : Chars)

theorem lane_padZeros_of_lt_two {j : Nat} (hj : j < 2) : lane (padZeros chars) j = 0x30#8 := by
  have hshift : (chars <<< 16).extractLsb' (8 * j) 8 = 0#8 := by
    ext k hk
    have hlow : 8 * j + k < 16 := by omega
    simp [hlow]
  rw [lane, BitVec.extractLsb'_or, hshift]
  interval_cases j <;> rfl

theorem lane_padZeros_add_two {j : Nat} (hj : j < 6) : lane (padZeros chars) (j + 2) = lane chars j := by
  have hshift : (chars <<< 16).extractLsb' (8 * (j + 2)) 8 = chars.extractLsb' (8 * j) 8 := by
    ext k hk
    have hlt : 8 * (j + 2) + k < 64 := by omega
    have hge : ¬8 * (j + 2) + k < 16 := by omega
    have hsub : 8 * (j + 2) + k - 16 = 8 * j + k := by omega
    simp only [BitVec.getElem_extractLsb', BitVec.getLsbD_shiftLeft, hlt, hge, hsub, decide_true, decide_false,
      Bool.not_false, Bool.true_and]
  have hzeros : (0x3030#64).extractLsb' (8 * (j + 2)) 8 = 0#8 := by interval_cases j <;> rfl
  rw [lane, BitVec.extractLsb'_or, hshift, hzeros, BitVec.or_zero, lane]

theorem stringValue_padZeros {n : Nat} (hn : n ≤ 6) :
    stringValue (n + 2) (padZeros chars) = stringValue n chars := by
  induction n with
  | zero =>
    simp only [stringValue_succ, lane_padZeros_of_lt_two chars (by decide : 0 < 2),
      lane_padZeros_of_lt_two chars (by decide : 1 < 2)]
    rfl
  | succ n ih =>
    rw [Nat.add_right_comm, stringValue_succ, ih (by omega), lane_padZeros_add_two chars hn, stringValue_succ]

theorem allHex_padZeros_iff {n : Nat} (hn : n ≤ 6) : AllHex (n + 2) (padZeros chars) ↔ AllHex n chars := by
  constructor
  · intro h j hj
    rw [← lane_padZeros_add_two chars (by omega)]
    exact h (j + 2) (by omega)
  · intro h j hj
    obtain hlt | ⟨j, rfl⟩ := (lt_or_ge j 2).imp_right Nat.exists_eq_add_of_le'
    · rw [lane_padZeros_of_lt_two chars hlt]
      rfl
    · rw [lane_padZeros_add_two chars (by omega)]
      exact h j (by omega)

end

/-- Two strings of accepted lengths give one result when both or neither are hex strings and their values are equal. -/
theorem encodeRequest_eq_of_stringValue_eq {n n' : BitVec 4} {chars chars' : Chars} (hlen : lengthOk n = true)
    (hlen' : lengthOk n' = true) (hhex : AllHex n'.toNat chars' ↔ AllHex n.toNat chars)
    (hvalue : stringValue n'.toNat chars' = stringValue n.toNat chars) :
    encodeRequest n' chars' = encodeRequest n chars := by
  have hdig : digitsOk n' chars' = digitsOk n chars := by
    rw [Bool.eq_iff_iff, digitsOk_iff_allHex, digitsOk_iff_allHex, hhex]
  have hacc : accumulate n' chars' = accumulate n chars := by
    rw [accumulate_eq_ofNat, accumulate_eq_ofNat, hvalue]
  have hparse : parse n' chars' = parse n chars := by rw [parse, parse, hlen, hlen', hdig, hacc]
  rw [encodeRequest, encodeRequest, hparse]

/-! ### The obligations -/

/-- Settles O13: both forms are the value of the first `n` digits. -/
theorem accumulatorFormsAgree : Obligations.AccumulatorFormsAgree := fun _ chars hn =>
  accumulate_eq_accumulateShift (by omega) chars

/-- Settles O16: the two zeros keep the string's value and whether it is a hex string, and the result reads no more. -/
theorem leadingZerosDoNotChangeTheResult : Obligations.LeadingZerosDoNotChangeTheResult := by
  intro n chars i i' s hrow hrow'
  obtain ⟨hlen, hn, _⟩ := hrow.length
  obtain ⟨hlen', hn', hle⟩ := hrow'.length
  have hresult : encodeRequest (BitVec.ofNat 4 (n + 2)) (padZeros chars) =
      encodeRequest (BitVec.ofNat 4 n) chars := by
    apply encodeRequest_eq_of_stringValue_eq hlen hlen' <;> rw [hn, hn']
    · exact allHex_padZeros_iff chars (by omega)
    · exact stringValue_padZeros chars (by omega)
  refine ⟨_, _, exec_requestRow (.inl hrow) s, exec_requestRow (.inl hrow') s, ?_⟩
  rw [State.setRegs_regs, State.setRegs_regs, hresult]

/-- Settles O12: the even lengths from 1 to 8. -/
theorem acceptedLengthsAreTwoFourSixEight : Obligations.AcceptedLengthsAreTwoFourSixEight := by
  intro n
  have hzero : n = 0#4 ↔ n.toNat = 0 := BitVec.toNat_eq
  simp only [lengthOk, getLsbD_zero_eq, Config.maxDigits, Config.accW, Bool.and_eq_true, bne_iff_ne, ne_eq, hzero,
    beq_iff_eq, decide_eq_true_eq, decide_eq_false_iff_not]
  omega

end Sys2Proof.Machine

/-! ## The classifier's ranges and the bound on short strings (family 42_classifier.md)

The classifier's ranges from its five cases, and what value a request can record: 0, or the accumulated value of an
accepted length, which is below one hex place per digit; from these the obligations O18 and O19. -/

namespace Sys2Proof.Machine

/-! ### The recorded value (42_classifier.md R71, 60_exceptions.md R89 to R91) -/

/-- A request's length fits `in_len` (30_encoding.md R44). -/
theorem RequestRow.toNat_ofNat {n : Nat} {chars : Chars} {i : Instr} (h : RequestRow n chars i) :
    (BitVec.ofNat 4 n).toNat = n := by
  obtain hrow | ⟨rfl, _⟩ | ⟨m, rfl, _⟩ | ⟨rfl, _⟩ | ⟨rfl, _⟩ | ⟨rfl, _⟩ := h
  case inl => exact hrow.length.2.1
  case inr.inr.inl => rw [BitVec.ofNat_toNat, BitVec.setWidth_eq]
  all_goals rfl

/-- The recorded value is 0, except that an accepted string of digits records its accumulated value. -/
theorem encodeRequest_cp_cases (n : BitVec 4) (chars : Chars) :
    (encodeRequest n chars).cp = 0#32 ∨ (lengthOk n = true ∧ (encodeRequest n chars).cp = accumulate n chars) := by
  cases hlen : lengthOk n with
  | false => exact .inl (by rw [encodeRequest_of_bad_length hlen, failure])
  | true =>
    cases hdig : digitsOk n chars with
    | false => exact .inl (by rw [encodeRequest_of_bad_digit hlen hdig, failure])
    | true => exact .inr ⟨rfl, encodeRequest_cp_of_digits hlen hdig⟩

/-- Six digits reach 0x00FFFFFF at most, and the one longer accepted length is 8. -/
theorem toNat_eq_eight_of_lt_encodeRequest_cp {n : BitVec 4} {chars : Chars}
    (h : 0x00FFFFFF < (encodeRequest n chars).cp.toNat) : n.toNat = 8 := by
  obtain hcp | ⟨hlen, hcp⟩ := encodeRequest_cp_cases n chars <;> rw [hcp] at h
  · exact absurd h (by decide)
  · have haccepted := (acceptedLengthsAreTwoFourSixEight n).mp hlen
    rw [accumulate_toNat (by omega)] at h
    have hpow : 16 ^ 6 < 16 ^ n.toNat := lt_of_le_of_lt h (stringValue_lt n.toNat chars)
    have hlong : 6 < n.toNat := (Nat.pow_lt_pow_iff_right (by decide)).mp hpow
    omega

/-! ### The obligations -/

/-- Settles O18: the row's edge records the value of its request, and only eight digits reach past 24 bits. -/
theorem onlyEightDigitsExceedTwentyFourBits : Obligations.OnlyEightDigitsExceedTwentyFourBits := by
  intro n chars i s hrow
  refine ⟨_, exec_requestRow hrow s, fun h => ?_⟩
  rw [State.setRegs_regs, Regs.ofResult_outCp] at h
  exact hrow.toNat_ofNat ▸ toNat_eq_eight_of_lt_encodeRequest_cp h

/-- Settles O19: the ranges of the five answers do not overlap, so each answer fixes which range holds the value. -/
theorem classifierRanges : Obligations.ClassifierRanges := by
  intro cp
  obtain ⟨hc, _⟩ | ⟨hc, _⟩ | ⟨hc, _⟩ | ⟨hc, _⟩ | ⟨hc, _⟩ := classify_cases cp <;>
    simp only [hc, reduceCtorEq, true_iff, false_iff] <;> omega

end Sys2Proof.Machine

/-! ## The packer's table and what a request writes from it (family 43_packer.md)

Each byte lane of the packer as fixed top bits put before a field of the value, the result of a request that spells a
value of one plane, and the bounds on the packed bytes; from these the obligations O21 to O25, O37 and O20. -/

namespace Sys2Proof.Machine

/-! ### The byte lanes as concatenations (43_packer.md R74 to R77) -/

/-- Where the mask is `k` ones and `pre` is `p` moved above them, a byte lane is `p` put before `k` bits of the value. -/
theorem packLane_eq_append {j k : Nat} (hjk : j + k = 8) (p : BitVec j) {pre mask : Byte}
    (hmask : mask.toNat = 2 ^ k - 1) (hpre : pre.toNat = 2 ^ k * p.toNat) (shift : Nat) (cp : CodePoint) :
    packLane pre shift mask cp = (p ++ cp.extractLsb' shift k).cast hjk := by
  have hlt : cp.toNat / 2 ^ shift % 2 ^ k < 2 ^ k := Nat.mod_lt _ (Nat.two_pow_pos k)
  apply BitVec.eq_of_toNat_eq
  rw [packLane_toNat k hmask (by rw [hpre, Nat.mul_mod_right]), BitVec.toNat_cast, BitVec.toNat_append,
    BitVec.extractLsb'_toNat, Nat.shiftRight_eq_div_pow, Nat.shiftLeft_eq, mul_comm p.toNat,
    ← Nat.two_pow_add_eq_or_of_lt hlt, hpre]

section
variable (shift : Nat) (cp : CodePoint)

theorem packLane_ascii : packLane 0x00 shift 0x7F cp = 0#1 ++ cp.extractLsb' shift 7 :=
  packLane_eq_append rfl 0#1 rfl rfl shift cp

theorem packLane_latin : packLane 0xC0 shift 0x1F cp = 0b110#3 ++ cp.extractLsb' shift 5 :=
  packLane_eq_append rfl 0b110#3 rfl rfl shift cp

theorem packLane_multilingual : packLane 0xE0 shift 0x0F cp = 0b1110#4 ++ cp.extractLsb' shift 4 :=
  packLane_eq_append rfl 0b1110#4 rfl rfl shift cp

theorem packLane_extended : packLane 0xF0 shift 0x07 cp = 0b11110#5 ++ cp.extractLsb' shift 3 :=
  packLane_eq_append rfl 0b11110#5 rfl rfl shift cp

theorem packLane_continuation : packLane 0x80 shift 0x3F cp = 0b10#2 ++ cp.extractLsb' shift 6 :=
  packLane_eq_append rfl 0b10#2 rfl rfl shift cp

end

section
variable (cp : CodePoint)

theorem pack_ascii_eq_append :
    pack cp (planeCode .ascii) = ⟨1#3, 0#24 ++ (0#1 ++ cp.extractLsb' 0 7 : Byte)⟩ := by
  rw [pack_ascii, packAscii, packLane_ascii]
  rfl

theorem pack_latin_eq_append :
    pack cp (planeCode .latin) =
      ⟨2#3, 0#16 ++ (0b10#2 ++ cp.extractLsb' 0 6) ++ (0b110#3 ++ cp.extractLsb' 6 5)⟩ := by
  rw [pack_latin, packLatin, packLane_latin, packLane_continuation]
  rfl

theorem pack_multilingual_eq_append :
    pack cp (planeCode .multilingual) =
      ⟨3#3, 0#8 ++ (0b10#2 ++ cp.extractLsb' 0 6) ++ (0b10#2 ++ cp.extractLsb' 6 6) ++
        (0b1110#4 ++ cp.extractLsb' 12 4)⟩ := by
  rw [pack_multilingual, packMultilingual, packLane_multilingual, packLane_continuation, packLane_continuation]
  rfl

theorem pack_extended_eq_append :
    pack cp (planeCode .extended) =
      ⟨4#3, (0b10#2 ++ cp.extractLsb' 0 6) ++ (0b10#2 ++ cp.extractLsb' 6 6) ++
        (0b10#2 ++ cp.extractLsb' 12 6) ++ (0b11110#5 ++ cp.extractLsb' 18 3)⟩ := by
  rw [pack_extended, packExtended, packLane_extended, packLane_continuation, packLane_continuation,
    packLane_continuation]
  rfl

end

/-! ### The fields of the value by its nibbles (43_packer.md R79) -/

/-- A field that reaches from bit `start` of `lo` into `hi` is `l` bits of `hi` before the top `t` bits of `lo`. -/
theorem extractLsb'_append_straddle {v w start l t : Nat} (hi : BitVec v) (lo : BitVec w) (hw : w = start + t) :
    (hi ++ lo).extractLsb' start (l + t) = hi.extractLsb' 0 l ++ lo.extractLsb' start t := by
  rw [← BitVec.extractLsb'_append_extractLsb'_eq_extractLsb' hw, BitVec.extractLsb'_append_eq_of_le le_rfl,
    Nat.sub_self, BitVec.extractLsb'_append_eq_of_add_le hw.ge]

section
variable (hi : BitVec 8) (u v w x y z : BitVec 4)

/-- The value whose nibbles 5 down to 0 are `u` to `z`, below the bits `hi`. -/
abbrev ofNibbles : CodePoint := hi ++ u ++ v ++ w ++ x ++ y ++ z

theorem ofNibbles_extractLsb'_0_7 :
    (ofNibbles hi u v w x y z).extractLsb' 0 7 = y.extractLsb' 0 3 ++ z := by
  rw [ofNibbles, extractLsb'_append_straddle (l := 3) (t := 4) _ z rfl, BitVec.extractLsb'_eq_self,
    BitVec.extractLsb'_append_eq_of_add_le (by decide)]

theorem ofNibbles_extractLsb'_0_6 :
    (ofNibbles hi u v w x y z).extractLsb' 0 6 = y.extractLsb' 0 2 ++ z := by
  rw [ofNibbles, extractLsb'_append_straddle (l := 2) (t := 4) _ z rfl, BitVec.extractLsb'_eq_self,
    BitVec.extractLsb'_append_eq_of_add_le (by decide)]

theorem ofNibbles_extractLsb'_6_5 :
    (ofNibbles hi u v w x y z).extractLsb' 6 5 = x.extractLsb' 0 3 ++ y.extractLsb' 2 2 := by
  rw [ofNibbles, BitVec.extractLsb'_append_eq_of_le (by decide), extractLsb'_append_straddle (l := 3) (t := 2) _ y rfl,
    BitVec.extractLsb'_append_eq_of_add_le (by decide)]

theorem ofNibbles_extractLsb'_6_6 :
    (ofNibbles hi u v w x y z).extractLsb' 6 6 = x ++ y.extractLsb' 2 2 := by
  rw [ofNibbles, BitVec.extractLsb'_append_eq_of_le (by decide), extractLsb'_append_straddle (l := 4) (t := 2) _ y rfl,
    BitVec.extractLsb'_append_eq_right]

theorem ofNibbles_extractLsb'_12_4 : (ofNibbles hi u v w x y z).extractLsb' 12 4 = w := by
  simp (disch := decide) only [ofNibbles, BitVec.extractLsb'_append_eq_of_le, Nat.reduceSub,
    BitVec.extractLsb'_append_eq_right]

theorem ofNibbles_extractLsb'_12_6 :
    (ofNibbles hi u v w x y z).extractLsb' 12 6 = v.extractLsb' 0 2 ++ w := by
  simp (disch := decide) only [ofNibbles, BitVec.extractLsb'_append_eq_of_le, Nat.reduceSub]
  rw [extractLsb'_append_straddle (l := 2) (t := 4) _ w rfl, BitVec.extractLsb'_eq_self,
    BitVec.extractLsb'_append_eq_of_add_le (by decide)]

theorem ofNibbles_extractLsb'_18_3 :
    (ofNibbles hi u v w x y z).extractLsb' 18 3 = u.extractLsb' 0 1 ++ v.extractLsb' 2 2 := by
  simp (disch := decide) only [ofNibbles, BitVec.extractLsb'_append_eq_of_le, Nat.reduceSub]
  rw [extractLsb'_append_straddle (l := 1) (t := 2) _ v rfl, BitVec.extractLsb'_append_eq_of_add_le (by decide)]

end

/-! ### A request that spells a value of one plane (44_encode.md R81) -/

section
variable {n : Nat} {chars : Chars} {i : Instr} (hrow : EncodeRow n chars i)
include hrow

/-- The value of a string of an accepted length fits 32 bits (00_scope.md R5). -/
theorem EncodeRow.toNat_ofNat_stringValue : (BitVec.ofNat 32 (stringValue n chars)).toNat = stringValue n chars := by
  obtain ⟨_, hn, hle⟩ := hrow.length
  rw [← hn, ← accumulate_eq_ofNat, accumulate_toNat (hn.symm ▸ hle)]

/-- A hex string whose value lies in a valid plane writes that plane's code, byte count and packed bytes. -/
theorem EncodeRow.exec_of_classify (hhex : AllHex n chars) {p : Plane} {bytes : BitVec 32}
    (hc : classify (BitVec.ofNat 32 (stringValue n chars)) = p)
    (hpack : pack (BitVec.ofNat 32 (stringValue n chars)) (planeCode p) = ⟨planeCode p, bytes⟩) (hp : p ≠ .invalid)
    (s : State) :
    ∃ t, exec i s = .next t ∧ t.regs =
      { outValid := true, outOk := true, outErr := 0#2, outNbytes := planeCode p, outBytes := bytes
        outCp := BitVec.ofNat 32 (stringValue n chars), outPlane := planeCode p } := by
  obtain ⟨hlen, hn, _⟩ := hrow.length
  have hdig : digitsOk (BitVec.ofNat 4 n) chars = true := (digitsOk_iff_allHex _ chars).mpr (hn.symm ▸ hhex)
  have hacc : accumulate (BitVec.ofNat 4 n) chars = BitVec.ofNat 32 (stringValue n chars) := by
    rw [accumulate_eq_ofNat, hn]
  rw [← hc] at hp
  refine ⟨_, exec_requestRow (.inl hrow) s, ?_⟩
  rw [State.setRegs_regs, encodeRequest_of_legal hlen hdig (hacc ▸ hp), hacc, hc, hpack]
  rfl

end

/-! ### Bounds on the packed bytes (43_packer.md R80) -/

/-- The bytes of a sequence of `nbytes` bytes keep to the table of shortest forms: no C0, C1 or F5 to FF anywhere, a
4-byte lead from F0 to F4, and a second byte in the range its lead leaves. -/
abbrev ShortestForm (nbytes : BitVec 3) (bytes : BitVec 32) : Prop :=
  (∀ k, 1 ≤ k → k ≤ 4 → blane bytes k ≠ 0xC0#8 ∧ blane bytes k ≠ 0xC1#8 ∧ (blane bytes k).toNat < 0xF5) ∧
  (nbytes = 4#3 → 0xF0 ≤ (blane bytes 1).toNat ∧ (blane bytes 1).toNat ≤ 0xF4) ∧
  (blane bytes 1 = 0xED#8 → (blane bytes 2).toNat < 0xA0) ∧
  (blane bytes 1 = 0xE0#8 → 0xA0 ≤ (blane bytes 2).toNat) ∧
  (blane bytes 1 = 0xF0#8 → 0x90 ≤ (blane bytes 2).toNat) ∧
  (blane bytes 1 = 0xF4#8 → (blane bytes 2).toNat ≤ 0x8F)

/-- The first two bytes, as natural numbers, of a sequence of `n` bytes in its shortest form. -/
abbrev ShortestLead (n lead second : Nat) : Prop :=
  (lead < 0xC0 ∨ (0xC2 ≤ lead ∧ lead ≤ 0xF4)) ∧ (n = 4 → 0xF0 ≤ lead) ∧ (lead = 0xED → second < 0xA0) ∧
  (lead = 0xE0 → 0xA0 ≤ second) ∧ (lead = 0xF0 → 0x90 ≤ second) ∧ (lead = 0xF4 → second ≤ 0x8F)

/-- A byte below C0, as every byte after the lead is, is none of the forbidden ones, so only the lead has bounds to keep. -/
theorem shortestForm_joinLanes {nbytes : BitVec 3} {b1 b2 b3 b4 : Byte}
    (h : ShortestLead nbytes.toNat b1.toNat b2.toNat) (h2 : b2.toNat < 0xC0) (h3 : b3.toNat < 0xC0)
    (h4 : b4.toNat < 0xC0) : ShortestForm nbytes (joinLanes b1 b2 b3 b4) := by
  obtain ⟨hlead, hfour, hED, hE0, hF0, hF4⟩ := h
  simp only [ShortestForm, blane_joinLanes_one, blane_joinLanes_two, ne_eq, BitVec.toNat_eq, BitVec.toNat_ofNat,
    Nat.reducePow, Nat.reduceMod]
  refine ⟨fun k h1 hk => ?_, fun hn => ⟨hfour hn, by have := hfour hn; omega⟩, hED, hE0, hF0, hF4⟩
  interval_cases k <;>
    simp only [blane_joinLanes_one, blane_joinLanes_two, blane_joinLanes_three, blane_joinLanes_four] <;> omega

theorem shortestForm_zero : ShortestForm 0#3 0#32 :=
  shortestForm_joinLanes (b1 := 0) (b2 := 0) (b3 := 0) (b4 := 0) (by decide) (by decide) (by decide) (by decide)

theorem packLane_continuation_toNat (shift : Nat) (cp : CodePoint) :
    (packLane 0x80 shift 0x3F cp).toNat = 0x80 + cp.toNat / 2 ^ shift % 64 :=
  packLane_toNat 6 rfl rfl shift cp

theorem packLane_continuation_lt (shift : Nat) (cp : CodePoint) : (packLane 0x80 shift 0x3F cp).toNat < 0xC0 := by
  rw [packLane_continuation_toNat]
  omega

section
variable {cp : CodePoint}

theorem shortestForm_packAscii : ShortestForm 1#3 (packAscii cp).bytes := by
  have h1 : (packLane 0x00 0 0x7F cp).toNat = 0 + cp.toNat / 2 ^ 0 % 2 ^ 7 := packLane_toNat 7 rfl rfl 0 cp
  refine shortestForm_joinLanes ?_ (by decide) (by decide) (by decide)
  rw [h1, BitVec.toNat_ofNat]
  omega

theorem shortestForm_packLatin (hlo : 0x80 ≤ cp.toNat) (hhi : cp.toNat < 0x800) :
    ShortestForm 2#3 (packLatin cp).bytes := by
  have h1 : (packLane 0xC0 6 0x1F cp).toNat = 0xC0 + cp.toNat / 2 ^ 6 % 2 ^ 5 := packLane_toNat 5 rfl rfl 6 cp
  refine shortestForm_joinLanes ?_ (packLane_continuation_lt 0 cp) (by decide) (by decide)
  rw [h1, BitVec.toNat_ofNat]
  omega

/-- E0 has bits [11:6] of a value from 0x800 up after it, and ED those of a value that is no surrogate. -/
theorem shortestForm_packMultilingual (hlo : 0x800 ≤ cp.toNat) (hhi : cp.toNat < 0x10000)
    (hsurr : ¬(0xD800 ≤ cp.toNat ∧ cp.toNat ≤ 0xDFFF)) : ShortestForm 3#3 (packMultilingual cp).bytes := by
  have h1 : (packLane 0xE0 12 0x0F cp).toNat = 0xE0 + cp.toNat / 2 ^ 12 % 2 ^ 4 := packLane_toNat 4 rfl rfl 12 cp
  refine shortestForm_joinLanes ?_ (packLane_continuation_lt 6 cp) (packLane_continuation_lt 0 cp) (by decide)
  rw [h1, packLane_continuation_toNat, BitVec.toNat_ofNat]
  omega

/-- F0 has bits [17:12] of a value from 0x10000 up after it, and F4 those of a value up to 0x10FFFF. -/
theorem shortestForm_packExtended (hlo : 0x10000 ≤ cp.toNat) (hhi : cp.toNat ≤ 0x10FFFF) :
    ShortestForm 4#3 (packExtended cp).bytes := by
  have h1 : (packLane 0xF0 18 0x07 cp).toNat = 0xF0 + cp.toNat / 2 ^ 18 % 2 ^ 3 := packLane_toNat 3 rfl rfl 18 cp
  refine shortestForm_joinLanes ?_ (packLane_continuation_lt 12 cp) (packLane_continuation_lt 6 cp)
    (packLane_continuation_lt 0 cp)
  rw [h1, packLane_continuation_toNat, BitVec.toNat_ofNat]
  omega

end

/-- A legal code point is packed in its shortest form. -/
theorem shortestForm_pack {cp : CodePoint} (h : LegalValue cp.toNat) :
    ShortestForm (planeCode (classify cp)) (pack cp (planeCode (classify cp))).bytes := by
  obtain ⟨hc, _⟩ | ⟨hc, hlo, hhi⟩ | ⟨hc, hlo, hhi, hsurr⟩ | ⟨hc, hlo, hhi⟩ | ⟨hc, _⟩ := classify_cases cp
  · rw [hc]
    exact shortestForm_packAscii
  · rw [hc]
    exact shortestForm_packLatin hlo hhi
  · rw [hc]
    exact shortestForm_packMultilingual hlo hhi hsurr
  · rw [hc]
    exact shortestForm_packExtended hlo hhi
  · exact absurd h ((classify_eq_invalid_iff cp).mp hc)

/-! ### The obligations -/

/-- Settles O21: each byte lane is fixed top bits before a field of the value, and each field is cut from the nibbles. -/
theorem packingTableLetters : Obligations.PackingTableLetters := by
  intro hi u v w x y z
  refine ⟨(pack_ascii_eq_append _).trans ?_, (pack_latin_eq_append _).trans ?_,
    (pack_multilingual_eq_append _).trans ?_, (pack_extended_eq_append _).trans ?_⟩
  · rw [ofNibbles_extractLsb'_0_7, BitVec.append_assoc (x₁ := 0#1)]
    rfl
  · rw [ofNibbles_extractLsb'_0_6, ofNibbles_extractLsb'_6_5, BitVec.append_assoc (x₁ := 0b110#3)]
    rfl
  · rw [ofNibbles_extractLsb'_0_6, ofNibbles_extractLsb'_6_6, ofNibbles_extractLsb'_12_4]
  · rw [ofNibbles_extractLsb'_0_6, ofNibbles_extractLsb'_6_6, ofNibbles_extractLsb'_12_6, ofNibbles_extractLsb'_18_3,
      BitVec.append_assoc (x₂ := v.extractLsb' 0 2), BitVec.append_assoc (x₁ := 0b11110#5)]
    rfl

/-- Settles O22: the ASCII row of the packer, whose one byte keeps all seven bits of the value. -/
theorem asciiRequestGivesOneByte : Obligations.AsciiRequestGivesOneByte := by
  intro n chars i s hrow hhex hhi cp
  have hcp : cp.toNat = stringValue n chars := hrow.toNat_ofNat_stringValue
  obtain ⟨hascii, _⟩ := classifierRanges cp
  obtain ⟨t, hexec, ht⟩ := hrow.exec_of_classify hhex (hascii.mpr (by omega)) (pack_ascii_eq_append cp) nofun s
  refine ⟨t, hexec, ht, ?_⟩
  rw [BitVec.toNat_append, BitVec.toNat_append, BitVec.extractLsb'_toNat, hcp]
  simp only [BitVec.toNat_ofNat, Nat.zero_mod, Nat.zero_shiftLeft, Nat.zero_or, Nat.shiftRight_zero]
  exact Nat.mod_eq_of_lt (by omega)

/-- Settles O23: the LATIN row of the packer. -/
theorem latinRequestGivesTwoBytes : Obligations.LatinRequestGivesTwoBytes := by
  intro n chars i s hrow hhex hlo hhi cp
  have hcp : cp.toNat = stringValue n chars := hrow.toNat_ofNat_stringValue
  obtain ⟨_, hlatin, _⟩ := classifierRanges cp
  exact hrow.exec_of_classify hhex (hlatin.mpr (by omega)) (pack_latin_eq_append cp) nofun s

/-- Settles O24: the MULTILINGUAL row of the packer. -/
theorem multilingualRequestGivesThreeBytes : Obligations.MultilingualRequestGivesThreeBytes := by
  intro n chars i s hrow hhex hlo hhi hsurr cp
  have hcp : cp.toNat = stringValue n chars := hrow.toNat_ofNat_stringValue
  obtain ⟨_, _, hmultilingual, _⟩ := classifierRanges cp
  exact hrow.exec_of_classify hhex (hmultilingual.mpr (by omega)) (pack_multilingual_eq_append cp) nofun s

/-- Settles O25: the EXTENDED row of the packer. -/
theorem extendedRequestGivesFourBytes : Obligations.ExtendedRequestGivesFourBytes := by
  intro n chars i s hrow hhex hlo hhi cp
  have hcp : cp.toNat = stringValue n chars := hrow.toNat_ofNat_stringValue
  obtain ⟨_, _, _, hextended, _⟩ := classifierRanges cp
  exact hrow.exec_of_classify hhex (hextended.mpr (by omega)) (pack_extended_eq_append cp) nofun s

/-- Settles O37: a failure writes no bytes, and a success those of a legal code point. -/
theorem onlyShortestFormsAreProduced : Obligations.OnlyShortestFormsAreProduced := by
  intro n chars i s hrow
  refine ⟨_, exec_requestRow hrow s, ?_⟩
  rw [State.setRegs_regs]
  obtain h | h | ⟨cp, _, h⟩ | ⟨cp, hcp, h⟩ := encodeRequest_cases (BitVec.ofNat 4 n) chars <;> rw [h]
  · exact shortestForm_zero
  · exact shortestForm_zero
  · exact shortestForm_zero
  · rw [success_pack]
    exact shortestForm_pack hcp

/-- Settles O20: no such code is that of one of the four planes. -/
theorem invalidPlanePacksNoBytes : Obligations.InvalidPlanePacksNoBytes := by
  intro cp code hcode
  have hne : ∀ p, p ≠ .invalid → code ≠ planeCode p := by
    rintro p hp rfl
    have := planeCode_toNat_of_ne_invalid hp
    omega
  rw [pack, if_neg (hne .ascii nofun), if_neg (hne .latin nofun), if_neg (hne .multilingual nofun),
    if_neg (hne .extended nofun)]

end Sys2Proof.Machine

/-! ## The round trip, success, and what a result depends on (family 44_encode.md)

The bus that spells a code point and its value, when a request succeeds and what it then records, the lanes a result does
not read, and runs that meet the same events; from these the obligations O38, O29, O34, O52, O33 and O44. -/

namespace Sys2Proof.Machine

/-! ### The bus that spells a code point (44_encode.md R87) -/

theorem digitChar_toNat (upper : Bool) (d : BitVec 4) :
    (digitChar upper d).toNat = d.toNat + if d.toNat < 10 then 0x30 else if upper then 0x37 else 0x57 := by
  have hd := d.isLt
  unfold digitChar
  split_ifs <;> rw [BitVec.toNat_ofNat, Nat.mod_eq_of_lt (by omega), add_comm]

theorem isHexCode_digitChar (upper : Bool) (d : BitVec 4) : isHexCode (digitChar upper d) = true := by
  have hd := d.isLt
  simp only [isHexCode, digitChar_toNat, Bool.or_eq_true, Bool.and_eq_true, decide_eq_true_eq]
  split_ifs <;> omega

theorem digitValue_digitChar (upper : Bool) (d : BitVec 4) : digitValue (digitChar upper d) = d.toNat := by
  have hd := d.isLt
  rw [digitValue, digitChar_toNat]
  split_ifs <;> omega

section
variable {n : Nat} (hn : n ≤ 8) (upper : BitVec 8) (cp : CodePoint) (other : Chars)
include hn

/-- Each significant lane holds its digit's character. -/
theorem lane_spell {j : Nat} (hj : j < n) :
    lane (spell n upper cp other) j = digitChar (upper.getLsbD j) (cp.extractLsb' (4 * (n - 1 - j)) 4) :=
  (lane_append (spellLane n upper cp other) (hj.trans_le hn)).trans (if_pos hj)

theorem allHex_spell : AllHex n (spell n upper cp other) := by
  intro j hj
  rw [lane_spell hn upper cp other hj]
  exact isHexCode_digitChar _ _

/-- The first `m` digits are the code point without its last `n - m` hex places. -/
theorem stringValue_spell_of_le (hcp : cp.toNat < 16 ^ n) {m : Nat} (hm : m ≤ n) :
    stringValue m (spell n upper cp other) = cp.toNat / 16 ^ (n - m) := by
  induction m with
  | zero => simp [stringValue, Nat.div_eq_of_lt hcp]
  | succ m ih =>
    obtain ⟨k, rfl⟩ := Nat.exists_eq_add_of_le hm
    have hplace : 2 ^ (4 * k) = 16 ^ k := pow_mul 2 4 k
    have hshift : m + 1 + k - m = k + 1 := by omega
    have hdigit : m + 1 + k - 1 - m = k := by omega
    rw [stringValue_succ, ih (by omega), lane_spell hn upper cp other hm, digitValue_digitChar, hshift, hdigit,
      Nat.add_sub_cancel_left, BitVec.extractLsb'_toNat, Nat.shiftRight_eq_div_pow, hplace, pow_succ,
      ← Nat.div_div_eq_div_mul]
    exact Nat.div_add_mod _ 16

/-- The spelled string has the code point's value, whatever the letters' cases and the unused lanes. -/
theorem stringValue_spell (hcp : cp.toNat < 16 ^ n) : stringValue n (spell n upper cp other) = cp.toNat := by
  rw [stringValue_spell_of_le hn upper cp other hcp le_rfl, Nat.sub_self, pow_zero, Nat.div_one]

end

/-! ### When a request succeeds (44_encode.md R88) -/

/-- The result is a success exactly for an accepted length, significant lanes that are hex digits, and a legal value. -/
theorem encodeRequest_ok_iff (n : BitVec 4) (chars : Chars) :
    (encodeRequest n chars).ok = true ↔
      lengthOk n = true ∧ AllHex n.toNat chars ∧ LegalValue (stringValue n.toNat chars) := by
  rw [← digitsOk_iff_allHex]
  cases hlen : lengthOk n with
  | false => simp [encodeRequest_of_bad_length hlen, failure]
  | true =>
    have haccepted := (acceptedLengthsAreTwoFourSixEight n).mp hlen
    rw [← accumulate_toNat (by omega)]
    cases hdig : digitsOk n chars with
    | false => simp [encodeRequest_of_bad_digit hlen hdig, failure]
    | true =>
      by_cases hc : classify (accumulate n chars) = .invalid
      · rw [encodeRequest_of_illegal hlen hdig hc]
        simpa [failure] using (classify_eq_invalid_iff _).mp hc
      · rw [encodeRequest_of_legal hlen hdig hc]
        simpa [success] using not_not.mp (mt (classify_eq_invalid_iff _).mpr hc)

/-- A success records the value of its string. -/
theorem encodeRequest_cp_toNat_of_ok {n : BitVec 4} {chars : Chars} (h : (encodeRequest n chars).ok = true) :
    (encodeRequest n chars).cp.toNat = stringValue n.toNat chars := by
  obtain ⟨hlen, hhex, _⟩ := (encodeRequest_ok_iff n chars).mp h
  have haccepted := (acceptedLengthsAreTwoFourSixEight n).mp hlen
  rw [encodeRequest_cp_of_digits hlen ((digitsOk_iff_allHex n chars).mpr hhex), accumulate_toNat (by omega)]

/-- The bytes of a success decode to the value it records (44_encode.md R87). -/
theorem utf8Decode_encodeRequest_of_ok {n : BitVec 4} {chars : Chars} (h : (encodeRequest n chars).ok = true) :
    utf8Decode (byteSeq (encodeRequest n chars).nbytes (encodeRequest n chars).bytes) =
      some (encodeRequest n chars).cp.toNat := by
  obtain ⟨_, ⟨_, _, _, _, _, _, hdecode⟩ | ⟨hfail, _⟩⟩ := coherent_encodeRequest n chars
  · exact hdecode
  · exact absurd (h.symm.trans hfail) (by decide)

/-! ### The lanes a result does not read (44_encode.md R85) -/

/-- `LENGTH_OK` refuses the length of every row that is not an `ENCODE` row. -/
theorem LengthRow.lengthOk_eq_false {n : Nat} {chars : Chars} {i : Instr} (h : LengthRow n chars i) :
    lengthOk (BitVec.ofNat 4 n) = false := by
  rw [Bool.eq_false_iff, ne_eq, acceptedLengthsAreTwoFourSixEight, RequestRow.toNat_ofNat (.inr h)]
  obtain ⟨rfl, _⟩ | ⟨_, _, hodd, _⟩ | ⟨rfl, _⟩ | ⟨rfl, _⟩ | ⟨rfl, _⟩ := h
  case inr.inl => omega
  all_goals decide

/-! ### Machines that meet the same events (44_encode.md R86, 70_reset_and_hazards.md R104) -/

/-- A run of events with known inputs takes just these events. -/
theorem run_known {before rest : List Event} (hknown : ∀ e ∈ before, decode e ≠ .unknownInput) {s : State}
    (hin : s.inputs = before ++ rest) : ∃ t, core.run before.length s = .next t ∧ t.inputs = rest := by
  induction before generalizing s with
  | nil => exact ⟨s, run_zero s, hin⟩
  | cons e before ih =>
    obtain ⟨he, hbefore⟩ := List.forall_mem_cons.mp hknown
    obtain ⟨u, hrun, hu⟩ := runEvent_next he { s with inputs := before ++ rest }
    obtain ⟨t, ht, hrest⟩ := ih hbefore hu
    exact ⟨t, (run_succ_of_next ((step_cons hin).trans hrun)).trans ht, hrest⟩

/-- A reset edge keeps nothing of the state but the events to come. -/
theorem resetEdge_congr {s s' : State} (chars : Chars) (h : s.inputs = s'.inputs) :
    resetEdge chars s = resetEdge chars s' := by
  simp [resetEdge, State.setRegs, State.setLanes, h]

/-- At a request or reset edge two machines with the same events to come step alike. -/
theorem step_congr_of_request_or_reset {s s' : State} {e : Event} {rest : List Event} (he : IsRequest e ∨ IsReset e)
    (hin : s.inputs = e :: rest) (hin' : s'.inputs = e :: rest) : step s = step s' := by
  obtain ⟨n, chars, hd⟩ | ⟨chars, hd⟩ := he
  · rw [step_of_instr hin hd, step_of_instr hin' hd, exec_decodeRequest, exec_decodeRequest]
    exact requestEdge_congr n chars rfl
  · rw [step_cons hin, step_cons hin', runEvent, runEvent, hd]
    exact resetEdge_congr chars rfl

/-! ### The obligations -/

/-- Settles O38: the spelled string has the code point's value, so its request succeeds, records it, and packs bytes that
decode to it. -/
theorem encodedBytesDecodeToTheCodePoint : Obligations.EncodedBytesDecodeToTheCodePoint := by
  intro n upper cp other i s hrow hcp hlegal
  obtain ⟨hlen, hn, hle⟩ := hrow.length
  have hvalue := stringValue_spell hle upper cp other hcp
  have hok : (encodeRequest (BitVec.ofNat 4 n) (spell n upper cp other)).ok = true := by
    rw [encodeRequest_ok_iff, hn, hvalue]
    exact ⟨hlen, allHex_spell hle upper cp other, hlegal⟩
  have hrecorded : (encodeRequest (BitVec.ofNat 4 n) (spell n upper cp other)).cp = cp :=
    BitVec.eq_of_toNat_eq (by rw [encodeRequest_cp_toNat_of_ok hok, hn, hvalue])
  have hdecode := utf8Decode_encodeRequest_of_ok hok
  rw [hrecorded] at hdecode
  exact ⟨_, exec_requestRow (.inl hrow) s, rfl, hok, hrecorded, hdecode⟩

/-- Settles O29: the three conditions of a success, and the string's value is below one hex place per digit. -/
theorem requestSucceedsExactlyWhenLegal : Obligations.RequestSucceedsExactlyWhenLegal := by
  intro n chars i s hrow
  have hn := hrow.toNat_ofNat
  have haccepted := acceptedLengthsAreTwoFourSixEight (BitVec.ofNat 4 n)
  have hiff := encodeRequest_ok_iff (BitVec.ofNat 4 n) chars
  rw [haccepted, legalValue_iff, hn] at hiff
  refine ⟨_, exec_requestRow hrow s, ?_⟩
  rw [State.setRegs_regs, Regs.ofResult_outOk, Regs.ofResult_outCp]
  refine ⟨hiff, fun hok => ?_⟩
  obtain ⟨hlen, _⟩ := hiff.mp hok
  have hlt := stringValue_lt n chars
  rw [encodeRequest_cp_toNat_of_ok hok, hn]
  refine ⟨hlt, fun hlarge => ?_⟩
  have hlong : 4 < n := (Nat.pow_lt_pow_iff_right (by decide)).mp (lt_of_le_of_lt (show 16 ^ 4 ≤ _ from hlarge) hlt)
  omega

/-- Settles O34: a rejected length fails before any lane is read, and an accepted one reads its significant lanes, of
which there are at most eight. -/
theorem unusedLanesDoNotMatter : Obligations.UnusedLanesDoNotMatter := by
  intro n chars chars' i i' s hrow hrow' hlanes
  have hresult : encodeRequest (BitVec.ofNat 4 n) chars' = encodeRequest (BitVec.ofNat 4 n) chars := by
    cases hlen : lengthOk (BitVec.ofNat 4 n) with
    | false => rw [encodeRequest_of_bad_length hlen, encodeRequest_of_bad_length hlen]
    | true =>
      have hn := hrow.toNat_ofNat
      have haccepted := (acceptedLengthsAreTwoFourSixEight _).mp hlen
      obtain hsame | hreject := hlanes
      · exact encodeRequest_congr fun j hj => by rw [hsame j (by omega)]
      · exact absurd hlen (Bool.eq_false_iff.mp hreject.lengthOk_eq_false)
  refine ⟨_, _, exec_requestRow hrow s, exec_requestRow hrow' s, ?_⟩
  rw [State.setRegs_regs, State.setRegs_regs, hresult]

/-- Settles O52: both machines take the events before the edge, step alike there, and go on from one state. -/
theorem oneRequestOrResetForgetsAllHistory : Obligations.OneRequestOrResetForgetsAllHistory := by
  intro s s' before rest e hknown he hin hin' k
  obtain ⟨t, hrun, ht⟩ := run_known hknown hin
  obtain ⟨t', hrun', ht'⟩ := run_known hknown (hin'.trans hin)
  rw [add_assoc, add_comm 1 k, run_add hrun, run_add hrun']
  exact run_succ_congr (step_congr_of_request_or_reset he ht ht')

/-- Settles O33: the row writes the result of its length and bus, in either state. -/
theorem resultDependsOnRequestOnly : Obligations.ResultDependsOnRequestOnly := by
  intro n chars i s s' hrow
  exact ⟨_, _, exec_requestRow hrow s, exec_requestRow hrow s', rfl⟩

/-- Settles O44: such an edge is read as idle, and the idle edge drops `out_valid` only. -/
theorem idleEdgeHoldsTheData : Obligations.IdleEdgeHoldsTheData := by
  intro s p rest hin hstable hr hv
  obtain ⟨hreset, _⟩ | ⟨_, hrequest, _⟩ | ⟨_, _, hidle⟩ := decode_edge_cases hstable
  · exact absurd (hr.symm.trans hreset) (by decide)
  · exact absurd (hv.symm.trans hrequest) (by decide)
  · obtain ⟨t, hstep, hregs, _⟩ := step_idle hin ⟨_, hidle⟩
    exact ⟨t, hstep, hregs⟩

end Sys2Proof.Machine

/-! ## The failures and the stopped clock (family 60_exceptions.md)

The result of a request for each cause of 60_exceptions.md R92, read from its string; from these the obligations O26, O27,
O28, O30 and O49. -/

namespace Sys2Proof.Machine

/-! ### One result per cause (60_exceptions.md R89 to R92) -/

section
variable {n : Nat} {chars : Chars} {i : Instr}

/-- `ENCODE` rejects the length before it reads a lane (R89). -/
theorem LengthRow.encodeRequest_eq (hrow : LengthRow n chars i) :
    encodeRequest (BitVec.ofNat 4 n) chars = failure .errLength 0#32 :=
  encodeRequest_of_bad_length hrow.lengthOk_eq_false

theorem LengthRow.not_accepted (hrow : LengthRow n chars i) : ¬(n = 2 ∨ n = 4 ∨ n = 6 ∨ n = 8) := by
  have hlen := hrow.lengthOk_eq_false
  rwa [Bool.eq_false_iff, ne_eq, acceptedLengthsAreTwoFourSixEight, RequestRow.toNat_ofNat (.inr hrow)] at hlen

variable (hrow : EncodeRow n chars i)
include hrow

theorem EncodeRow.accepted : n = 2 ∨ n = 4 ∨ n = 6 ∨ n = 8 :=
  hrow.imp And.left (Or.imp And.left (Or.imp And.left And.left))

theorem EncodeRow.digitsOk_iff : digitsOk (BitVec.ofNat 4 n) chars = true ↔ AllHex n chars := by
  rw [digitsOk_iff_allHex, RequestRow.toNat_ofNat (.inl hrow)]

theorem EncodeRow.accumulate_eq : accumulate (BitVec.ofNat 4 n) chars = BitVec.ofNat 32 (stringValue n chars) := by
  rw [accumulate_eq_ofNat, RequestRow.toNat_ofNat (.inl hrow)]

/-- The classifier calls the string's value invalid exactly when it is no legal code point. -/
theorem EncodeRow.classify_accumulate_iff :
    classify (accumulate (BitVec.ofNat 4 n) chars) = .invalid ↔ ¬LegalValue (stringValue n chars) := by
  rw [classify_eq_invalid_iff, hrow.accumulate_eq, hrow.toNat_ofNat_stringValue]

/-- A significant lane that is no hex digit fails the digit check (R90). -/
theorem EncodeRow.encodeRequest_of_not_allHex (hhex : ¬AllHex n chars) :
    encodeRequest (BitVec.ofNat 4 n) chars = failure .errDigit 0#32 := by
  obtain ⟨hlen, _⟩ := hrow.length
  exact encodeRequest_of_bad_digit hlen (Bool.eq_false_iff.mpr (mt hrow.digitsOk_iff.mp hhex))

/-- An illegal value is recorded with its failure (R91). -/
theorem EncodeRow.encodeRequest_of_not_legal (hhex : AllHex n chars) (hvalue : ¬LegalValue (stringValue n chars)) :
    encodeRequest (BitVec.ofNat 4 n) chars = failure .errCodepoint (BitVec.ofNat 32 (stringValue n chars)) := by
  obtain ⟨hlen, _⟩ := hrow.length
  rw [← hrow.accumulate_eq]
  exact encodeRequest_of_illegal hlen (hrow.digitsOk_iff.mpr hhex) (hrow.classify_accumulate_iff.mpr hvalue)

/-- With no cause left, the request reports none. -/
theorem EncodeRow.encodeRequest_err_of_legal (hhex : AllHex n chars) (hvalue : LegalValue (stringValue n chars)) :
    (encodeRequest (BitVec.ofNat 4 n) chars).err = 0#2 := by
  obtain ⟨hlen, _⟩ := hrow.length
  have hplane := mt hrow.classify_accumulate_iff.mp (not_not.mpr hvalue)
  rw [encodeRequest_of_legal hlen (hrow.digitsOk_iff.mpr hhex) hplane]
  rfl

end

/-! ### The obligations -/

/-- Settles O26: the row writes the length failure, whatever the lanes hold. -/
theorem rejectedLengthRecordsLengthFailure : Obligations.RejectedLengthRecordsLengthFailure := by
  intro n chars i s hrow
  refine ⟨_, exec_requestRow (.inr hrow) s, ?_⟩
  rw [State.setRegs_regs, hrow.encodeRequest_eq]
  rfl

/-- Settles O27: one bad lane suffices for the digit check to fail. -/
theorem badDigitRecordsDigitFailure : Obligations.BadDigitRecordsDigitFailure := by
  intro n j chars i s hrow hj hbad
  have hhex : ¬AllHex n chars := fun h => absurd ((h j hj).symm.trans hbad) (by decide)
  refine ⟨_, exec_requestRow (.inl hrow) s, ?_⟩
  rw [State.setRegs_regs, hrow.encodeRequest_of_not_allHex hhex]
  rfl

/-- Settles O28: the value is illegal, so the row writes the code-point failure, and it is past the reach of two digits. -/
theorem illegalValueRecordsCodePointFailure : Obligations.IllegalValueRecordsCodePointFailure := by
  intro n chars i s hrow hhex hvalue
  have hillegal : ¬LegalValue (stringValue n chars) := by
    rw [legalValue_iff]
    omega
  refine ⟨_, exec_requestRow (.inl hrow) s, ?_, ?_⟩
  · rw [State.setRegs_regs, hrow.encodeRequest_of_not_legal hhex hillegal]
    rfl
  · rintro rfl
    have hlt : stringValue 2 chars < 256 := stringValue_lt 2 chars
    omega

/-- Settles O30: the checks in R92's order, and at each the result of the row when it is the first to fail. -/
theorem firstFailureCauseIsReported : Obligations.FirstFailureCauseIsReported := by
  intro n chars i s hrow
  refine ⟨_, exec_requestRow hrow s, ?_⟩
  rw [State.setRegs_regs, Regs.ofResult_outErr]
  simp only [← legalValue_iff]
  obtain hrow | hrow := hrow
  · rw [if_neg (not_not.mpr hrow.accepted)]
    split_ifs with hhex hvalue
    · exact hrow.encodeRequest_err_of_legal hhex hvalue
    · rw [hrow.encodeRequest_of_not_legal hhex hvalue]
      rfl
    · rw [hrow.encodeRequest_of_not_allHex hhex]
      rfl
  · rw [if_pos hrow.not_accepted, hrow.encodeRequest_eq]
    rfl

/-- Settles O49, by induction on the number of steps: each leaves the state, and so the empty list, as it is. -/
theorem stoppedClockHoldsEveryRegister : Obligations.StoppedClockHoldsEveryRegister := by
  intro k s hin
  induction k with
  | zero => exact run_zero s
  | succ k ih => exact (run_succ_of_next (step_nil hin)).trans ih

end Sys2Proof.Machine

/-! ## Reset, back-to-back requests and unknown inputs (family 70_reset_and_hazards.md)

The step of a reset edge and of an edge with an unknown input, and runs of reset edges and of requests; from these the
obligations O17, O42, O47, O41 and O48. -/

namespace Sys2Proof.Machine

/-! ### Reset edges (70_reset_and_hazards.md R101 to R103) -/

/-- The step of a reset edge writes the reset values, whatever else its pins present. -/
theorem step_reset {s : State} {e : Event} {rest : List Event} (hin : s.inputs = e :: rest) (he : IsReset e) :
    ∃ t, step s = .next t ∧ t.regs = Regs.reset ∧ t.inputs = rest := by
  obtain ⟨chars, hd⟩ := he
  rw [step_cons hin, runEvent, hd]
  exact ⟨_, rfl, rfl, rfl⟩

/-- Reset held for one edge or more: each edge writes the reset values again. -/
theorem run_reset {e : Event} {held rest : List Event} (hreset : ∀ e' ∈ e :: held, IsReset e') {s : State}
    (hin : s.inputs = e :: held ++ rest) :
    ∃ t, core.run (e :: held).length s = .next t ∧ t.regs = Regs.reset ∧ t.inputs = rest := by
  induction held generalizing e s with
  | nil =>
    obtain ⟨u, hstep, hu⟩ := step_reset hin (hreset e List.mem_cons_self)
    exact ⟨u, run_succ_of_next hstep, hu⟩
  | cons e' held ih =>
    obtain ⟨he, hheld⟩ := List.forall_mem_cons.mp hreset
    obtain ⟨u, hstep, _, hinputs⟩ := step_reset hin he
    obtain ⟨t, hrun, ht⟩ := ih hheld hinputs
    exact ⟨t, (run_succ_of_next hstep).trans hrun, ht⟩

/-! ### Requests at consecutive edges (70_reset_and_hazards.md R105, R109) -/

/-- In a run of requests, the registers hold each one's result right after its edge. -/
theorem run_requests {reqs : List (BitVec 4 × Chars)} {rest : List Event} {s : State}
    (hin : s.inputs = reqs.map (fun r => requestEvent r.1 r.2) ++ rest) {k : Nat} {n : BitVec 4} {chars : Chars}
    (hk : reqs[k]? = some (n, chars)) :
    ∃ t, core.run (k + 1) s = .next t ∧ t.regs = Regs.ofResult (encodeRequest n chars) := by
  induction reqs generalizing s k with
  | nil => cases hk
  | cons req reqs ih =>
    obtain ⟨u, hstep, hregs, hinputs⟩ := step_requestEvent hin
    rw [run_succ_of_next hstep]
    cases k with
    | zero =>
      cases hk
      exact ⟨u, run_zero u, hregs⟩
    | succ k => exact ih hinputs hk

/-! ### Unknown inputs (70_reset_and_hazards.md R107) -/

/-- An edge is not stable exactly when one of its four inputs has a bad bit. -/
theorem PortSample.stable_eq_false_iff (p : PortSample) :
    p.stable = false ↔ p.rst.bad ≠ 0#1 ∨ p.inValid.bad ≠ 0#1 ∨ p.inLen.bad ≠ 0#4 ∨ p.inChars.bad ≠ 0#64 := by
  simp only [PortSample.stable, Bool.and_eq_false_iff, beq_eq_false_iff_ne, or_assoc]

theorem decode_of_not_stable {p : PortSample} (h : p.stable = false) : decode (.edge p) = .unknownInput := by
  simp [decode, h]

/-- The step of an event with an unknown input is refused. -/
theorem step_unknownInput {s : State} {e : Event} {rest : List Event} (hin : s.inputs = e :: rest)
    (hd : decode e = .unknownInput) : step s = .refused .unknownInput := by
  rw [step_cons hin, runEvent, hd]

/-! ### The obligations -/

/-- Settles O17: both strings are accepted hex strings, so the results read no more than the value. -/
theorem everySpellingGivesTheSameResult : Obligations.EverySpellingGivesTheSameResult := by
  intro n n' chars chars' i i' s hrow hrow' hhex hhex' hvalue
  obtain ⟨hlen, hn, _⟩ := hrow.length
  obtain ⟨hlen', hn', _⟩ := hrow'.length
  have hresult : encodeRequest (BitVec.ofNat 4 n') chars' = encodeRequest (BitVec.ofNat 4 n) chars := by
    apply encodeRequest_eq_of_stringValue_eq hlen hlen' <;> rw [hn, hn']
    · exact iff_of_true hhex' hhex
    · exact hvalue.symm
  refine ⟨_, _, exec_requestRow (.inl hrow) s, exec_requestRow (.inl hrow') s, ?_⟩
  rw [State.setRegs_regs, State.setRegs_regs, hresult]

/-- Settles O42: the run of reset edges leaves the request next at the port, and its step writes its result. -/
theorem resetMayBeHeldAndIsReadyAtOnce : Obligations.ResetMayBeHeldAndIsReadyAtOnce := by
  intro s held rest n chars hne hreset hin
  obtain ⟨e, held, rfl⟩ := List.exists_cons_of_ne_nil hne
  obtain ⟨t, hrun, hregs, hinputs⟩ := run_reset hreset hin
  obtain ⟨u, hstep, hu⟩ := step_requestEvent hinputs
  exact ⟨t, u, hrun, hregs, (run_add hrun).trans (run_succ_of_next hstep), hu⟩

/-- Settles O47, by induction on the run of requests. -/
theorem backToBackRequestsAreAllServed : Obligations.BackToBackRequestsAreAllServed :=
  fun _ _ _ hin _ _ _ hk => run_requests hin hk

/-- Settles O41: such an edge is read as a reset edge before `in_valid` is looked at. -/
theorem resetEdgeClearsAndDropsTheRequest : Obligations.ResetEdgeClearsAndDropsTheRequest := by
  intro s p rest hin hstable hr
  obtain ⟨_, hreset⟩ | ⟨hlow, _⟩ | ⟨hlow, _⟩ := decode_edge_cases hstable
  · obtain ⟨t, hstep, hregs, _⟩ := step_reset hin ⟨_, hreset⟩
    exact ⟨t, hstep, hregs⟩
  · exact absurd (hlow.symm.trans hr) (by decide)
  · exact absurd (hlow.symm.trans hr) (by decide)

/-- Settles O48: one bad bit makes the edge unstable, and the decoder rejects it before it reads a level. -/
theorem unknownInputIsRefused : Obligations.UnknownInputIsRefused := fun _ p _ hin hbad =>
  step_unknownInput hin (decode_of_not_stable ((PortSample.stable_eq_false_iff p).mpr hbad))

end Sys2Proof.Machine
